-- ==== Sys2Proof/Word.lean ====
section
/-! DEFINITION. Word.lean: the bit vectors of DESCORE, by the widths 00_scope.md rule R7 gives. -/

namespace Sys2Proof

/-- A register of the host port, a block, a key, an initialisation vector: 64 bits (R7). -/
abbrev Word := BitVec 64

/-- One byte of DBUF (R61), an OP or a SEL field (R81), a register index (R7). -/
abbrev Byte := BitVec 8

/-- A data half, L or R: 32 bits (R7). -/
abbrev Half := BitVec 32

/-- A key-schedule half, C or D: 28 bits (R7). -/
abbrev KeyHalf := BitVec 28

/-- A round subkey: 48 bits (R7). -/
abbrev Subkey := BitVec 48

end Sys2Proof
end

