-- ==== Sys2Proof/Syntax.lean ====
section
/-! DEFINITION. Syntax.lean: the commands of 30_encoding.md rule R83, one constructor per row of
spec/opcode_table.json, and the host's transactions (20_memory.md R62 to R65). -/

namespace Sys2Proof

/-- A command. Its encoded operands are SEL, F0 and F1 alone (30_encoding.md R86); every other operand is an
implicit register. -/
inductive Instr where
  /-- NOP (45_control.md R170). -/
  | nop
  /-- INIT with F0 = KEYGEN and F1 = IVGEN (45_control.md R172). -/
  | init (keygen ivgen : Bool)
  /-- RSTCHAIN (45_control.md R174). -/
  | rstchain
  /-- ENC (44_chaining.md R152). -/
  | enc
  /-- DEC (44_chaining.md R153). -/
  | dec
  /-- ENCMSG (44_chaining.md R155). -/
  | encmsg
  /-- DECMSG (44_chaining.md R156). -/
  | decmsg
  /-- PERM, SEL the table's number (40_permutation.md R109). -/
  | perm (sel : Byte)
  /-- SBOX, SEL the S-box's number (41_sbox.md R118). -/
  | sbox (sel : Byte)
  /-- FFUNC (43_feistel.md R137). -/
  | ffunc
  /-- ROUND (43_feistel.md R139). -/
  | round
  /-- KSUB, SEL the round's number (42_key_schedule.md R130). -/
  | ksub (sel : Byte)
  /-- CRYPT, F0 = DIR: false encrypts, true decrypts (43_feistel.md R141). -/
  | crypt (decrypt : Bool)
deriving DecidableEq, Repr

/-- What the host can do in one step: a register or DBUF transaction (20_memory.md R62 to R65), or asserting the
core's reset input (70_reset_and_hazards.md R210). -/
inductive Transaction where
  | regRead (idx : Byte)
  | regWrite (idx : Byte) (v : Word)
  | bufRead (a : Nat)
  | bufWrite (a : Nat) (b : Byte)
  | reset
deriving DecidableEq, Repr

/-- What a transaction returns to the host: a read returns a word (R62) or a byte (R64), the others nothing. -/
inductive Reply where
  | nothing
  | word (v : Word)
  | byte (b : Byte)
deriving DecidableEq, Repr

end Sys2Proof
end

