-- ==== Sys2Proof/WellFormed.lean ====
section
/-! DEFINITION. WellFormed.lean: which commands have an encoding, that is, whose SEL is in its OP's legal set
(30_encoding.md R83). -/

namespace Sys2Proof

/-- SEL of PERM names one of six tables (30_encoding.md R85). -/
def permSelLegal (sel : Byte) : Bool := sel.toNat ≤ 5

/-- SEL of SBOX names one of eight S-boxes (R83). -/
def sboxSelLegal (sel : Byte) : Bool := sel.toNat ≤ 7

/-- SEL of KSUB names a round, 1 to 16 (R83). -/
def ksubSelLegal (sel : Byte) : Bool := 1 ≤ sel.toNat && sel.toNat ≤ 16

/-- The command has an encoding. -/
def Instr.wf : Instr → Bool
  | .nop => true
  | .init _ _ => true
  | .rstchain => true
  | .enc => true
  | .dec => true
  | .encmsg => true
  | .decmsg => true
  | .perm sel => permSelLegal sel
  | .sbox sel => sboxSelLegal sel
  | .ffunc => true
  | .round => true
  | .ksub sel => ksubSelLegal sel
  | .crypt _ => true

end Sys2Proof
end

