-- ==== Sys2Proof/Decode.lean ====
section
/-! DEFINITION. Decode.lean: the command word (30_encoding.md R81) read and written. `decode` is total and rejects
by name; a rejected word is no command, and writing it to CMD raises ILLEGAL_CMD (30_encoding.md R84, R87), which
is Machine/HostPort.lean's business. -/

namespace Sys2Proof

/-- OP, bits 7:0 (R81). -/
def opField (w : Word) : Byte := w.extractLsb' 0 8

/-- SEL, bits 15:8 (R81). -/
def selField (w : Word) : Byte := w.extractLsb' 8 8

/-- F0, bit 16 (R81). -/
def f0Field (w : Word) : Bool := w.getLsbD 16

/-- F1, bit 17 (R81). -/
def f1Field (w : Word) : Bool := w.getLsbD 17

/-- RSV, bits 63:18 (R81). -/
def rsvField (w : Word) : BitVec 46 := w.extractLsb' 18 46

/-- Why a word is no command (30_encoding.md R87). -/
inductive Reject where
  /-- RSV is not 0. -/
  | reservedBits
  /-- OP is in no row of rule R83. -/
  | unassignedOp
  /-- SEL is outside its OP's legal set. -/
  | selector
  /-- A flag is set that its OP does not define. -/
  | undefinedFlag
deriving DecidableEq, Repr

/-- A command that takes no operand field: SEL, F0 and F1 must be 0. -/
def decodePlain (i : Instr) (w : Word) : Except Reject Instr :=
  if selField w ≠ 0#8 then .error .selector
  else if f0Field w || f1Field w then .error .undefinedFlag
  else .ok i

/-- A command that takes SEL: SEL must be in the legal set, F0 and F1 must be 0. -/
def decodeSelected (legal : Byte → Bool) (mk : Byte → Instr) (w : Word) : Except Reject Instr :=
  if !legal (selField w) then .error .selector
  else if f0Field w || f1Field w then .error .undefinedFlag
  else .ok (mk (selField w))

/-- INIT: SEL must be 0; F0 and F1 are its operands. -/
def decodeInit (w : Word) : Except Reject Instr :=
  if selField w ≠ 0#8 then .error .selector
  else .ok (.init (f0Field w) (f1Field w))

/-- CRYPT: SEL and F1 must be 0; F0 is its operand. -/
def decodeCrypt (w : Word) : Except Reject Instr :=
  if selField w ≠ 0#8 then .error .selector
  else if f1Field w then .error .undefinedFlag
  else .ok (.crypt (f0Field w))

/-- The command a word encodes, by the opcode map of rule R83. -/
def decode (w : Word) : Except Reject Instr :=
  if rsvField w ≠ 0#46 then .error .reservedBits
  else match (opField w).toNat with
    | 0x00 => decodePlain .nop w
    | 0x01 => decodeInit w
    | 0x02 => decodePlain .rstchain w
    | 0x10 => decodePlain .enc w
    | 0x11 => decodePlain .dec w
    | 0x12 => decodePlain .encmsg w
    | 0x13 => decodePlain .decmsg w
    | 0x20 => decodeSelected permSelLegal .perm w
    | 0x21 => decodeSelected sboxSelLegal .sbox w
    | 0x22 => decodePlain .ffunc w
    | 0x23 => decodePlain .round w
    | 0x24 => decodeSelected ksubSelLegal .ksub w
    | 0x25 => decodeCrypt w
    | _ => .error .unassignedOp

/-- The OP of each command (R83). -/
def Instr.opcode : Instr → Byte
  | .nop => 0x00#8
  | .init _ _ => 0x01#8
  | .rstchain => 0x02#8
  | .enc => 0x10#8
  | .dec => 0x11#8
  | .encmsg => 0x12#8
  | .decmsg => 0x13#8
  | .perm _ => 0x20#8
  | .sbox _ => 0x21#8
  | .ffunc => 0x22#8
  | .round => 0x23#8
  | .ksub _ => 0x24#8
  | .crypt _ => 0x25#8

/-- The SEL of each command (R83); 0 for the commands that take none. -/
def Instr.sel : Instr → Byte
  | .nop => 0#8
  | .init _ _ => 0#8
  | .rstchain => 0#8
  | .enc => 0#8
  | .dec => 0#8
  | .encmsg => 0#8
  | .decmsg => 0#8
  | .perm sel => sel
  | .sbox sel => sel
  | .ffunc => 0#8
  | .round => 0#8
  | .ksub sel => sel
  | .crypt _ => 0#8

/-- The F0 of each command (R83): KEYGEN of INIT, DIR of CRYPT. -/
def Instr.f0 : Instr → Bool
  | .nop => false
  | .init kg _ => kg
  | .rstchain => false
  | .enc => false
  | .dec => false
  | .encmsg => false
  | .decmsg => false
  | .perm _ => false
  | .sbox _ => false
  | .ffunc => false
  | .round => false
  | .ksub _ => false
  | .crypt dir => dir

/-- The F1 of each command (R83): IVGEN of INIT. -/
def Instr.f1 : Instr → Bool
  | .nop => false
  | .init _ ig => ig
  | .rstchain => false
  | .enc => false
  | .dec => false
  | .encmsg => false
  | .decmsg => false
  | .perm _ => false
  | .sbox _ => false
  | .ffunc => false
  | .round => false
  | .ksub _ => false
  | .crypt _ => false

/-- A command word from its fields: `RSV ‖ F1 ‖ F0 ‖ SEL ‖ OP` with RSV = 0 (R81). -/
def commandWord (op sel : Byte) (f0 f1 : Bool) : Word :=
  0#46 ++ BitVec.ofBool f1 ++ BitVec.ofBool f0 ++ sel ++ op

/-- The word of a command (30_encoding.md R83, R89). -/
def encode (i : Instr) : Word := commandWord i.opcode i.sel i.f0 i.f1

/-- `Legal(w)`, condition by condition as 30_encoding.md R84 writes it. It is not what `decode` is made of. -/
def legal (w : Word) : Bool :=
  let op := (opField w).toNat
  let sel := (selField w).toNat
  rsvField w == 0#46
  && [0x00, 0x01, 0x02, 0x10, 0x11, 0x12, 0x13, 0x20, 0x21, 0x22, 0x23, 0x24, 0x25].contains op
  && (if op = 0x20 then decide (sel ≤ 5)
      else if op = 0x21 then decide (sel ≤ 7)
      else if op = 0x24 then decide (1 ≤ sel ∧ sel ≤ 16)
      else decide (sel = 0))
  && (!w.getLsbD 16 || [0x01, 0x25].contains op)
  && (!w.getLsbD 17 || [0x01].contains op)

/-- The command in the row of spec/opcode_table.json whose bits are `w`, `nbits` of them: a command word is one
64-bit value written to CMD, so the bits stand in it as the table numbers them. -/
def decodeTableWord (nbits w : Nat) : Option Instr :=
  if w % 2 ^ nbits < 2 ^ 64 then
    match decode (BitVec.ofNat 64 (w % 2 ^ nbits)) with
    | .ok i => some i
    | .error _ => none
  else none

end Sys2Proof
end

