-- ==== Sys2Proof/Config.lean ====
section
/-! DEFINITION. Config.lean: what the spec leaves open, as constants without a body. Nothing in Lean can
evaluate them, so whatever is proved holds for every value they may have. -/

namespace Sys2Proof.Config

/-- How many blocks of eight bytes DBUF has beyond its first: the open part of `N_BUF`
(00_scope.md R7, 93_implementation_defined.md U5; log entry 3). -/
opaque dbufExtraBlocks : Nat

/-- `N_BUF`, the size of DBUF in bytes at reset: "a multiple of 8 and at least 8" and otherwise open (R7). -/
def nBuf : Nat := 8 * (dbufExtraBlocks + 1)

/-- What DBUF offset `a` holds while nothing has been written to it since the `epoch`-th reset: any value,
fixed until the byte is written (20_memory.md R61, 93_implementation_defined.md U3; log entry 4). -/
opaque dbufUnwritten (epoch a : Nat) : Byte

/-- The `n`-th answer of the entropy source to `draw64()`: "a 64-bit value that no rule constrains"
(00_scope.md R14, 93_implementation_defined.md U4; log entry 5). -/
opaque entropy (n : Nat) : Word

end Sys2Proof.Config
end

