-- ==== Sys2Proof/Machine/State.lean ====
section
/-! DEFINITION. Machine/State.lean: everything the spec gives the machine (10_state.md R39), and the few fields
that are the model's own: what the environment offers the machine and what the last transaction returned. -/

namespace Sys2Proof.Machine

/-- Why a step stops with a fault: never. Every access is permitted (20_memory.md R73), every error is reported in
STATUS and the machine goes on (60_exceptions.md R196, R197), and even the fatal table fault leaves a state the
spec describes (60_exceptions.md R190). So the type has no constructor; that is safe, since no step is cut short. -/
inductive Fault where
deriving DecidableEq, Repr

/-- Why a step is refused. -/
inductive Refusal where
  /-- Raised by an arm of `exec` whose command has no meaning yet; safe, since nothing follows it. No arm raises it. -/
  | notModelled (mnemonic : String)
deriving DecidableEq, Repr

/-- The recoverable errors of 60_exceptions.md rules R187 to R192. -/
inductive ErrCode where
  | illegalCmd
  | unsupportedMode
  | notInitialised
  | invalidInputLength
  | bufferOverrun
deriving DecidableEq, Repr

/-- How a command ends when it does not complete: `raise Err(code)` (00_scope.md R13) or `raise TableFault`
(60_exceptions.md R190). -/
inductive Raise where
  | err (code : ErrCode)
  | tableFault
deriving DecidableEq, Repr

/-- The written bytes of DBUF, by offset, in strictly rising order. An offset that is not listed has not been
written since reset and holds no value of its own here (log entry 4). -/
abbrev Memory := List Host.Cell

/-- The state of DESCORE. -/
structure State where
  /-- CMD, the last word written to it (10_state.md R22). -/
  cmd : Word
  /-- STATUS.ERR (10_state.md R23). -/
  err : BitVec 4
  /-- STATUS.KSV: a cipher instance exists (R23). -/
  ksv : Bool
  /-- STATUS.AMODE, the instance's mode: false ECB, true CBC (R23). -/
  amode : Bool
  /-- STATUS.FAULT (R23, 60_exceptions.md R190). -/
  fault : Bool
  /-- STATUS.LASTOP (R23). -/
  lastop : Byte
  /-- KEY (R24). -/
  key : Word
  /-- IV (R25). -/
  iv : Word
  /-- MODE[1:0]; the other bits are not stored (R26). -/
  mode : BitVec 2
  /-- CHAIN (R27). -/
  chain : Word
  /-- DIN (R28). -/
  din : Word
  /-- DOUT (R28). -/
  dout : Word
  /-- LEN (R29). -/
  len : Word
  /-- TIN (R30). -/
  tin : Word
  /-- TAUX (R30). -/
  taux : Word
  /-- TOUT (R30). -/
  tout : Word
  /-- AIV (R32). -/
  aiv : Word
  /-- SUBKEY[1] to SUBKEY[16], the first at place 0 (R33). -/
  subkey : Vector Subkey 16
  /-- DBUF, its bytes written since reset (20_memory.md R61). -/
  dbuf : Memory
  /-- The model's own: which reset the unwritten bytes of DBUF date from (log entry 4). -/
  dbufEpoch : Nat
  /-- `N_BUF`, the implementation's size of DBUF; no step changes it (00_scope.md R7; log entry 3). -/
  nBuf : Nat
  /-- The model's own: the answers the entropy source will give next (log entry 5). -/
  entropy : List Word
  /-- The model's own: how many free draws were made (log entry 5). -/
  drawCount : Nat
  /-- The model's own: the transactions the host issues next (log entry 1). -/
  pending : List Transaction
  /-- The model's own: what the last transaction returned (log entry 2). -/
  reply : Reply
deriving DecidableEq, Repr

/-- The machine right after reset (70_reset_and_hazards.md R210): no cipher instance, no host transaction yet. -/
def State.reset : State where
  cmd := 0
  err := 0
  ksv := false
  amode := false
  fault := false
  lastop := 0
  key := 0
  iv := 0
  mode := 0
  chain := 0
  din := 0
  dout := 0
  len := 0
  tin := 0
  taux := 0
  tout := 0
  aiv := 0
  subkey := Vector.replicate 16 0
  dbuf := []
  dbufEpoch := 0
  nBuf := Config.nBuf
  entropy := []
  drawCount := 0
  pending := []
  reply := .nothing

end Sys2Proof.Machine
end

