-- ==== Sys2Proof/Machine/Flags.lean ====
section
/-! DEFINITION. Machine/Flags.lean: the STATUS register (10_state.md R23): its error codes and how its fields are
assembled for a read. DESCORE has no other flag (10_state.md R40). -/

namespace Sys2Proof.Machine

/-- STATUS.ERR of a command that completes (60_exceptions.md R186). -/
def errOk : BitVec 4 := 0

/-- The number of each error in STATUS.ERR (R23). -/
def ErrCode.code : ErrCode → BitVec 4
  | .illegalCmd => 1
  | .unsupportedMode => 2
  | .notInitialised => 3
  | .invalidInputLength => 4
  | .bufferOverrun => 5

/-- STATUS[15:0]: `LASTOP ‖ FAULT ‖ 0 ‖ AMODE ‖ KSV ‖ ERR` (R23). -/
def statusHalf (s : State) : BitVec 16 :=
  s.lastop ++ BitVec.ofBool s.fault ++ 0#1 ++ BitVec.ofBool s.amode ++ BitVec.ofBool s.ksv ++ s.err

end Sys2Proof.Machine
end

