-- ==== Sys2Proof/Machine/Operands.lean ====
section
/-! DEFINITION. Machine/Operands.lean: the operands of commands, which are implicit registers (30_encoding.md R86),
and the register file as the host sees it (10_state.md R21). -/

namespace Sys2Proof.Machine

/-- SUBKEY[i] for i in 1..16 (10_state.md R33). Any other i is no subkey; no caller asks for one. -/
def subkeyAt (s : State) (i : Nat) : Subkey := s.subkey.toList.getD (i - 1) 0

/-- The value a host read of index `idx` returns (20_memory.md R62; reserved indices R35). -/
def readReg (s : State) (idx : Byte) : Word :=
  match idx.toNat with
  | 0x00 => s.cmd
  | 0x01 => (statusHalf s).setWidth 64
  | 0x02 => s.key
  | 0x03 => s.iv
  | 0x04 => s.mode.setWidth 64
  | 0x05 => s.chain
  | 0x06 => s.din
  | 0x07 => s.dout
  | 0x08 => s.len
  | 0x09 => s.tin
  | 0x0A => s.taux
  | 0x0B => s.tout
  | 0x0C => s.aiv
  | n => if 0x10 ≤ n ∧ n ≤ 0x1F then (subkeyAt s (n - 0x0F)).setWidth 64 else 0

/-- A host write to an index other than CMD's (20_memory.md R63): only the writable registers change. -/
def writeReg (s : State) (idx : Byte) (v : Word) : State :=
  match idx.toNat with
  | 0x02 => { s with key := v }
  | 0x03 => { s with iv := v }
  | 0x04 => { s with mode := v.extractLsb' 0 2 }
  | 0x05 => { s with chain := v }
  | 0x06 => { s with din := v }
  | 0x08 => { s with len := v }
  | 0x09 => { s with tin := v }
  | 0x0A => { s with taux := v }
  | _ => s

/-- TIN[31:0], the half-block of FFUNC (43_feistel.md R137). -/
def tinHalf (s : State) : Half := s.tin.extractLsb' 0 32

/-- TIN[5:0], the chunk of SBOX (41_sbox.md R118). -/
def tinChunk (s : State) : BitVec 6 := s.tin.extractLsb' 0 6

/-- TAUX[47:0], the subkey of FFUNC and ROUND (43_feistel.md R137, R139). -/
def tauxSubkey (s : State) : Subkey := s.taux.extractLsb' 0 48

end Sys2Proof.Machine
end

