-- ==== Sys2Proof/Machine/Ops.lean ====
section
/-! DEFINITION. Machine/Ops.lean: the operations the commands share: DBUF, draws, raising an error, and running a
command to its end. -/

namespace Sys2Proof.Machine

/-! ## DBUF as data -/

/-- The byte written at `a`, if one was. -/
def Memory.read (m : Memory) (a : Nat) : Option Byte :=
  match m with
  | [] => none
  | (k, v) :: rest => if a = k then some v else Memory.read rest a

/-- `b` written at `a`, the offsets kept rising. -/
def Memory.write (m : Memory) (a : Nat) (b : Byte) : Memory :=
  match m with
  | [] => [(a, b)]
  | (k, v) :: rest =>
    if a < k then (a, b) :: (k, v) :: rest
    else if a = k then (a, b) :: rest
    else (k, v) :: Memory.write rest a b

/-- Every offset listed is at least `lo`, and they rise strictly. -/
def Memory.risingFrom (lo : Nat) (m : Memory) : Bool :=
  match m with
  | [] => true
  | (k, _) :: rest => decide (lo ≤ k) && Memory.risingFrom (k + 1) rest

/-- The canonical form: the offsets rise strictly. (An offset that is not listed holds no value of its own, so no
entry equals what an unlisted offset holds.) -/
def Memory.wf (m : Memory) : Bool := Memory.risingFrom 0 m

/-- Every offset listed lies below `n`. -/
def Memory.below (n : Nat) (m : Memory) : Bool := m.all fun c => decide (c.1 < n)

/-! ## DBUF as the machine has it -/

/-- DBUF[a] for `a < N_BUF`: the byte written last, or, where none was written since reset, a value that nothing
constrains (20_memory.md R61; log entry 4). -/
def byteIn (epoch : Nat) (m : Memory) (a : Nat) : Byte :=
  match m.read a with
  | some b => b
  | none => Config.dbufUnwritten epoch a

/-- DBUF[a] in the state `s`. -/
def dbufByte (s : State) (a : Nat) : Byte := byteIn s.dbufEpoch s.dbuf a

/-- `MemRead(a, n)`: n bytes from offset `a`, the first most significant (00_scope.md R12, 20_memory.md R66). -/
def memRead (epoch : Nat) (m : Memory) (a : Nat) : (n : Nat) → BitVec (8 * n)
  | 0 => 0#0
  | n + 1 => memRead epoch m a n ++ byteIn epoch m (a + n)

/-- Byte `k` of an n-byte value, byte 0 the most significant: `v[8n-1-8k : 8n-8-8k]` (R12). -/
def byteOf {n : Nat} (v : BitVec (8 * n)) (k : Nat) : Byte := v.extractLsb' (8 * (n - 1 - k)) 8

/-- The first `count` bytes of `v` written from offset `a` on. -/
def memWriteFirst {n : Nat} (m : Memory) (a : Nat) (v : BitVec (8 * n)) : Nat → Memory
  | 0 => m
  | k + 1 => (memWriteFirst m a v k).write (a + k) (byteOf v k)

/-- `MemWrite(a, n, v)`: the n bytes of `v` from offset `a`, the most significant first (00_scope.md R12). -/
def memWrite (m : Memory) (a n : Nat) (v : BitVec (8 * n)) : Memory := memWriteFirst m a v n

/-- A block of DBUF: commands access it eight bytes at a time (20_memory.md R68). -/
def readBlock (epoch : Nat) (m : Memory) (a : Nat) : Word := memRead epoch m a 8

/-- A block stored into DBUF. -/
def writeBlock (m : Memory) (a : Nat) (v : Word) : Memory := memWrite m a 8 v

/-! ## Draws -/

/-- `draw64()` (00_scope.md R14): the entropy source's next answer, where the environment has given it one, and
otherwise a value that nothing constrains (log entry 5). -/
def draw64 (s : State) : Word × State :=
  match s.entropy with
  | d :: rest => (d, { s with entropy := rest })
  | [] => (Config.entropy s.drawCount, { s with drawCount := s.drawCount + 1 })

/-! ## Ending a command -/

/-- A command that completes: `STATUS.ERR <- OK` after its other writes, and LASTOP (60_exceptions.md R185, R186). -/
def complete (op : Byte) (s : State) : State := { s with err := errOk, lastop := op }

/-- Raising: what DESCORE has in place of taking an exception (60_exceptions.md R196). `s` is the state before the
command: none of the command's writes is made (00_scope.md R13). An error writes ERR and LASTOP; a table fault
sets FAULT and writes LASTOP (60_exceptions.md R190; log entry 7). There is no return from it (R197). -/
def raise (op : Byte) (r : Raise) (s : State) : State :=
  match r with
  | .err c => { s with err := c.code, lastop := op }
  | .tableFault => { s with fault := true, lastop := op }

/-- A command run to its end: its writes all at once when it completes, none of them when it raises
(00_scope.md R13, R15). -/
def runCommand (op : Byte) (body : State → Except Raise State) (s : State) : Host.Outcome State Fault Refusal :=
  match body s with
  | .ok t => .next (complete op t)
  | .error r => .next (raise op r s)

/-! ## The checks commands share -/

/-- A check of 60_exceptions.md R194: raises `r` when `bad`. -/
def raiseWhen (bad : Bool) (r : Raise) : Except Raise Unit := if bad then .error r else .ok ()

/-- The instance check of ENC, DEC, ENCMSG, DECMSG and CRYPT (60_exceptions.md R188). -/
def requireInstance (s : State) : Except Raise Unit := raiseWhen (!s.ksv) (.err .notInitialised)

/-- The table check (60_exceptions.md R190): `inRange` says that the tables the command reads are sound (log
entry 7). -/
def requireTables (inRange : Bool) : Except Raise Unit := raiseWhen (!inRange) .tableFault

/-- `CheckLen()` (44_chaining.md R157): LEN unsigned, the multiple of 8 first. -/
def checkLen (s : State) : Except Raise Unit := do
  raiseWhen (s.len.toNat % 8 != 0) (.err .invalidInputLength)
  raiseWhen (decide (s.nBuf < s.len.toNat)) (.err .bufferOverrun)

end Sys2Proof.Machine
end

