-- ==== Sys2Proof/Machine/Permutation.lean ====
section
/-! DEFINITION. Machine/Permutation.lean: the bit-permutation unit and PERM (40_permutation.md). The tables are
the spec's own print of them (log entry 8). -/

namespace Sys2Proof.Machine

/-- A permutation table from `wIn` bits to `n` bits: per destination bit, the first most significant, the 1-indexed
MSB-first position of its source bit (40_permutation.md R100). -/
structure PermTable (wIn n : Nat) where
  entries : Vector Nat n
deriving DecidableEq, Repr

/-- `pos(v, W, p) = v[W-p]`: the source's MSB-first, 1-indexed bit numbering (00_scope.md R9). -/
def posBit {w : Nat} (v : BitVec w) (p : Nat) : Bool := v.getLsbD (w - p)

/-- The bits of `src` at the positions listed, as one number, the first most significant. -/
def gatherBits {w : Nat} (src : BitVec w) (positions : List Nat) : Nat :=
  positions.foldl (fun acc p => 2 * acc + (posBit src p).toNat) 0

/-- `permute(T, W_in, src)` for a table whose entries are in range (R100). -/
def permute {w n : Nat} (t : PermTable w n) (src : BitVec w) : BitVec n :=
  BitVec.ofNat n (gatherBits src t.entries.toList)

/-- Every entry of the table is in [1, W_in] (40_permutation.md R101). -/
def PermTable.inRange {w n : Nat} (t : PermTable w n) : Bool :=
  t.entries.toList.all fun p => decide (1 ≤ p) && decide (p ≤ w)

/-- IP, the initial permutation (R102). -/
def tableIP : PermTable 64 64 where
  entries := #v[
    58, 50, 42, 34, 26, 18, 10,  2,
    60, 52, 44, 36, 28, 20, 12,  4,
    62, 54, 46, 38, 30, 22, 14,  6,
    64, 56, 48, 40, 32, 24, 16,  8,
    57, 49, 41, 33, 25, 17,  9,  1,
    59, 51, 43, 35, 27, 19, 11,  3,
    61, 53, 45, 37, 29, 21, 13,  5,
    63, 55, 47, 39, 31, 23, 15,  7]

/-- IP⁻¹, the final permutation (R103). -/
def tableIPInv : PermTable 64 64 where
  entries := #v[
    40,  8, 48, 16, 56, 24, 64, 32,
    39,  7, 47, 15, 55, 23, 63, 31,
    38,  6, 46, 14, 54, 22, 62, 30,
    37,  5, 45, 13, 53, 21, 61, 29,
    36,  4, 44, 12, 52, 20, 60, 28,
    35,  3, 43, 11, 51, 19, 59, 27,
    34,  2, 42, 10, 50, 18, 58, 26,
    33,  1, 41,  9, 49, 17, 57, 25]

/-- E, the expansion (R105). -/
def tableE : PermTable 32 48 where
  entries := #v[
    32,  1,  2,  3,  4,  5,
     4,  5,  6,  7,  8,  9,
     8,  9, 10, 11, 12, 13,
    12, 13, 14, 15, 16, 17,
    16, 17, 18, 19, 20, 21,
    20, 21, 22, 23, 24, 25,
    24, 25, 26, 27, 28, 29,
    28, 29, 30, 31, 32,  1]

/-- P, the round permutation (R106). -/
def tableP : PermTable 32 32 where
  entries := #v[
    16,  7, 20, 21,
    29, 12, 28, 17,
     1, 15, 23, 26,
     5, 18, 31, 10,
     2,  8, 24, 14,
    32, 27,  3,  9,
    19, 13, 30,  6,
    22, 11,  4, 25]

/-- PC-1 left, which produces C0 (R107). -/
def tablePC1Left : PermTable 64 28 where
  entries := #v[
    57, 49, 41, 33, 25, 17,  9,
     1, 58, 50, 42, 34, 26, 18,
    10,  2, 59, 51, 43, 35, 27,
    19, 11,  3, 60, 52, 44, 36]

/-- PC-1 right, which produces D0 (R107). -/
def tablePC1Right : PermTable 64 28 where
  entries := #v[
    63, 55, 47, 39, 31, 23, 15,
     7, 62, 54, 46, 38, 30, 22,
    14,  6, 61, 53, 45, 37, 29,
    21, 13,  5, 28, 20, 12,  4]

/-- PC-2, applied to C ‖ D (R108). -/
def tablePC2 : PermTable 56 48 where
  entries := #v[
    14, 17, 11, 24,  1,  5,
     3, 28, 15,  6, 21, 10,
    23, 19, 12,  4, 26,  8,
    16,  7, 27, 20, 13,  2,
    41, 52, 31, 37, 47, 55,
    30, 40, 51, 45, 33, 48,
    44, 49, 39, 56, 34, 53,
    46, 42, 50, 36, 29, 32]

/-- PC-1 whole, "left then right": its result is `C0 ‖ D0` (R107). -/
def tablePC1 : PermTable 64 56 where
  entries := tablePC1Left.entries ++ tablePC1Right.entries

/-- PERM with one table: `TOUT <- zext_64(permute(T, W_in, TIN[W_in-1:0]))` (R109). -/
def permWith {w n : Nat} (t : PermTable w n) (s : State) : Except Raise State := do
  requireTables t.inRange
  return { s with tout := (permute t (s.tin.setWidth w)).setWidth 64 }

/-- PERM by SEL (30_encoding.md R85); a SEL above 5 is illegal (R109). -/
def permBody (sel : Byte) (s : State) : Except Raise State :=
  match sel.toNat with
  | 0 => permWith tableIP s
  | 1 => permWith tableIPInv s
  | 2 => permWith tableE s
  | 3 => permWith tableP s
  | 4 => permWith tablePC1 s
  | 5 => permWith tablePC2 s
  | _ => .error (.err .illegalCmd)

/-- PERM (40_permutation.md R109). -/
def execPerm (sel : Byte) (s : State) : Host.Outcome State Fault Refusal :=
  runCommand 0x20#8 (permBody sel) s

end Sys2Proof.Machine
end

