-- ==== Sys2Proof/Machine/Sbox.lean ====
section
/-! DEFINITION. Machine/Sbox.lean: the S-box engine and SBOX (41_sbox.md). The tables are the spec's own print of
them, row 0 first (41_sbox.md R117; log entry 8). -/

namespace Sys2Proof.Machine

/-- S-box 0, FIPS S1 (R117). -/
def sboxTable0 : Vector (BitVec 4) 64 := #v[
    14,  4, 13,  1,  2, 15, 11,  8,  3, 10,  6, 12,  5,  9,  0,  7,
     0, 15,  7,  4, 14,  2, 13,  1, 10,  6, 12, 11,  9,  5,  3,  8,
     4,  1, 14,  8, 13,  6,  2, 11, 15, 12,  9,  7,  3, 10,  5,  0,
    15, 12,  8,  2,  4,  9,  1,  7,  5, 11,  3, 14, 10,  0,  6, 13]

/-- S-box 1, FIPS S2 (R117). -/
def sboxTable1 : Vector (BitVec 4) 64 := #v[
    15,  1,  8, 14,  6, 11,  3,  4,  9,  7,  2, 13, 12,  0,  5, 10,
     3, 13,  4,  7, 15,  2,  8, 14, 12,  0,  1, 10,  6,  9, 11,  5,
     0, 14,  7, 11, 10,  4, 13,  1,  5,  8, 12,  6,  9,  3,  2, 15,
    13,  8, 10,  1,  3, 15,  4,  2, 11,  6,  7, 12,  0,  5, 14,  9]

/-- S-box 2, FIPS S3 (R117). -/
def sboxTable2 : Vector (BitVec 4) 64 := #v[
    10,  0,  9, 14,  6,  3, 15,  5,  1, 13, 12,  7, 11,  4,  2,  8,
    13,  7,  0,  9,  3,  4,  6, 10,  2,  8,  5, 14, 12, 11, 15,  1,
    13,  6,  4,  9,  8, 15,  3,  0, 11,  1,  2, 12,  5, 10, 14,  7,
     1, 10, 13,  0,  6,  9,  8,  7,  4, 15, 14,  3, 11,  5,  2, 12]

/-- S-box 3, FIPS S4 (R117). -/
def sboxTable3 : Vector (BitVec 4) 64 := #v[
     7, 13, 14,  3,  0,  6,  9, 10,  1,  2,  8,  5, 11, 12,  4, 15,
    13,  8, 11,  5,  6, 15,  0,  3,  4,  7,  2, 12,  1, 10, 14,  9,
    10,  6,  9,  0, 12, 11,  7, 13, 15,  1,  3, 14,  5,  2,  8,  4,
     3, 15,  0,  6, 10,  1, 13,  8,  9,  4,  5, 11, 12,  7,  2, 14]

/-- S-box 4, FIPS S5 (R117). -/
def sboxTable4 : Vector (BitVec 4) 64 := #v[
     2, 12,  4,  1,  7, 10, 11,  6,  8,  5,  3, 15, 13,  0, 14,  9,
    14, 11,  2, 12,  4,  7, 13,  1,  5,  0, 15, 10,  3,  9,  8,  6,
     4,  2,  1, 11, 10, 13,  7,  8, 15,  9, 12,  5,  6,  3,  0, 14,
    11,  8, 12,  7,  1, 14,  2, 13,  6, 15,  0,  9, 10,  4,  5,  3]

/-- S-box 5, FIPS S6 (R117). -/
def sboxTable5 : Vector (BitVec 4) 64 := #v[
    12,  1, 10, 15,  9,  2,  6,  8,  0, 13,  3,  4, 14,  7,  5, 11,
    10, 15,  4,  2,  7, 12,  9,  5,  6,  1, 13, 14,  0, 11,  3,  8,
     9, 14, 15,  5,  2,  8, 12,  3,  7,  0,  4, 10,  1, 13, 11,  6,
     4,  3,  2, 12,  9,  5, 15, 10, 11, 14,  1,  7,  6,  0,  8, 13]

/-- S-box 6, FIPS S7 (R117). -/
def sboxTable6 : Vector (BitVec 4) 64 := #v[
     4, 11,  2, 14, 15,  0,  8, 13,  3, 12,  9,  7,  5, 10,  6,  1,
    13,  0, 11,  7,  4,  9,  1, 10, 14,  3,  5, 12,  2, 15,  8,  6,
     1,  4, 11, 13, 12,  3,  7, 14, 10, 15,  6,  8,  0,  5,  9,  2,
     6, 11, 13,  8,  1,  4, 10,  7,  9,  5,  0, 15, 14,  2,  3, 12]

/-- S-box 7, FIPS S8 (R117). -/
def sboxTable7 : Vector (BitVec 4) 64 := #v[
    13,  2,  8,  4,  6, 15, 11,  1, 10,  9,  3, 14,  5,  0, 12,  7,
     1, 15, 13,  8, 10,  3,  7,  4, 12,  5,  6, 11,  0, 14,  9,  2,
     7, 11,  4,  1,  9, 12, 14,  2,  0,  6, 10, 13, 15,  3,  5,  8,
     2,  1, 14,  7,  4, 10,  8, 13, 15, 12,  9,  0,  3,  5,  6, 11]

/-- The S-box of each number (41_sbox.md R115). -/
def sboxTable (j : Fin 8) : Vector (BitVec 4) 64 :=
  match j with
  | 0 => sboxTable0
  | 1 => sboxTable1
  | 2 => sboxTable2
  | 3 => sboxTable3
  | 4 => sboxTable4
  | 5 => sboxTable5
  | 6 => sboxTable6
  | 7 => sboxTable7

/-- The row of a chunk, `x[5] ‖ x[0]` (R116). -/
def sboxRow (x : BitVec 6) : BitVec 2 := x.extractLsb' 5 1 ++ x.extractLsb' 0 1

/-- The column of a chunk, `x[4:1]` (R116). -/
def sboxCol (x : BitVec 6) : BitVec 4 := x.extractLsb' 1 4

/-- Where a chunk's entry stands in an S-box, row-major (R115). -/
def sboxIndex (x : BitVec 6) : Fin 64 :=
  ⟨16 * (sboxRow x).toNat + (sboxCol x).toNat, by
    have hr := (sboxRow x).isLt
    have hc := (sboxCol x).isLt
    omega⟩

/-- `sbox(j, x)` (R116). Its TableFault guard "cannot fire": `j`, the row and the column are in range by their
types. -/
def sbox (j : Fin 8) (x : BitVec 6) : BitVec 4 := (sboxTable j)[sboxIndex x]

/-- SBOX by SEL; a SEL above 7 is illegal (41_sbox.md R118). -/
def sboxBody (sel : Byte) (s : State) : Except Raise State :=
  if h : sel.toNat < 8 then .ok { s with tout := (sbox ⟨sel.toNat, h⟩ (tinChunk s)).setWidth 64 }
  else .error (.err .illegalCmd)

/-- SBOX (41_sbox.md R118). -/
def execSbox (sel : Byte) (s : State) : Host.Outcome State Fault Refusal :=
  runCommand 0x21#8 (sboxBody sel) s

end Sys2Proof.Machine
end

