-- ==== Sys2Proof/Machine/Feistel.lean ====
section
/-! DEFINITION. Machine/Feistel.lean: the f-function, the round, the 16-round driver, and FFUNC, ROUND and CRYPT
(43_feistel.md). -/

namespace Sys2Proof.Machine

/-- S-box `j` of its chunk of the 48-bit value: chunk `j` is `X[47-6j : 42-6j]` (43_feistel.md R135). -/
def sboxOfChunk (x : Subkey) (j : Fin 8) : BitVec 4 := sbox j (x.extractLsb' (42 - 6 * j.val) 6)

/-- The eight S-box outputs, output 0 most significant, four bits each (R135, R136). -/
def substitute (x : Subkey) : Half :=
  sboxOfChunk x 0 ++ sboxOfChunk x 1 ++ sboxOfChunk x 2 ++ sboxOfChunk x 3
    ++ sboxOfChunk x 4 ++ sboxOfChunk x 5 ++ sboxOfChunk x 6 ++ sboxOfChunk x 7

/-- `f(R, K)` (R135). -/
def feistelF (r : Half) (k : Subkey) : Half := permute tableP (substitute (permute tableE r ^^^ k))

/-- L of `L ‖ R` (R138). -/
def leftHalf (lr : Word) : Half := lr.extractLsb' 32 32

/-- R of `L ‖ R` (R138). -/
def rightHalf (lr : Word) : Half := lr.extractLsb' 0 32

/-- `round(LR, K) = R ‖ (L ^ f(R, K))` (R138). -/
def feistelRound (lr : Word) (k : Subkey) : Word :=
  rightHalf lr ++ (leftHalf lr ^^^ feistelF (rightHalf lr) k)

/-- The halves exchanged: the pre-output's `R16 ‖ L16` (43_feistel.md R140). -/
def swapHalves (lr : Word) : Word := rightHalf lr ++ leftHalf lr

/-- `transform(x, ks)` (R140). -/
def transform (x : Word) (ks : List Subkey) : Word :=
  permute tableIPInv (swapHalves (ks.foldl feistelRound (permute tableIP x)))

/-- `DES_E` under a schedule: K1 first (R140). -/
def desE (ks : Vector Subkey 16) (x : Word) : Word := transform x ks.toList

/-- `DES_D` under a schedule: K16 first (R140). -/
def desD (ks : Vector Subkey 16) (x : Word) : Word := transform x ks.toList.reverse

/-- The tables f reads. -/
def fTablesInRange : Bool := tableE.inRange && tableP.inRange

/-- The tables the block transform reads. -/
def transformTablesInRange : Bool := tableIP.inRange && fTablesInRange && tableIPInv.inRange

/-- FFUNC's pseudocode (43_feistel.md R137). -/
def ffuncBody (s : State) : Except Raise State := do
  requireTables fTablesInRange
  return { s with tout := (feistelF (tinHalf s) (tauxSubkey s)).setWidth 64 }

/-- FFUNC (43_feistel.md R137). -/
def execFfunc (s : State) : Host.Outcome State Fault Refusal := runCommand 0x22#8 ffuncBody s

/-- ROUND's pseudocode (43_feistel.md R139). -/
def roundBody (s : State) : Except Raise State := do
  requireTables fTablesInRange
  return { s with tout := feistelRound s.tin (tauxSubkey s) }

/-- ROUND (43_feistel.md R139). -/
def execRound (s : State) : Host.Outcome State Fault Refusal := runCommand 0x23#8 roundBody s

/-- CRYPT's pseudocode (43_feistel.md R141). -/
def cryptBody (decrypt : Bool) (s : State) : Except Raise State := do
  requireInstance s
  requireTables transformTablesInRange
  return { s with tout := if decrypt then desD s.subkey s.tin else desE s.subkey s.tin }

/-- CRYPT (43_feistel.md R141). -/
def execCrypt (decrypt : Bool) (s : State) : Host.Outcome State Fault Refusal :=
  runCommand 0x25#8 (cryptBody decrypt) s

end Sys2Proof.Machine
end

