-- ==== Sys2Proof/Machine/Chaining.lean ====
section
/-! DEFINITION. Machine/Chaining.lean: the ECB/CBC block-chaining controller: the mode laws, ENC, DEC, ENCMSG and
DECMSG (44_chaining.md). -/

namespace Sys2Proof.Machine

/-! ## The mode laws, as functions on a sequence of blocks (44_chaining.md R151) -/

/-- `ECB_E` and `ECB_D`: each block on its own, by the block function `f`. -/
def ecb (f : Word → Word) (blocks : List Word) : List Word := blocks.map f

/-- `CBC_E(iv, P)` by the block function `e`. -/
def cbcE (e : Word → Word) (iv : Word) : List Word → List Word
  | [] => []
  | p :: rest => e (p ^^^ iv) :: cbcE e (e (p ^^^ iv)) rest

/-- `CBC_D(iv, C)` by the block function `d`. -/
def cbcD (d : Word → Word) (iv : Word) : List Word → List Word
  | [] => []
  | c :: rest => (d c ^^^ iv) :: cbcD d c rest

/-- The final chain: the last ciphertext block, or `iv` where there is none. -/
def finalChain (iv : Word) (ciphertext : List Word) : Word := ciphertext.getLastD iv

/-! ## One block -/

/-- A plaintext block encrypted in the instance's mode from the chain value `chain`: the ciphertext, which is the
next chain value as well (44_chaining.md R152, R155). -/
def encryptBlock (s : State) (chain p : Word) : Word × Word :=
  let c := if s.amode then desE s.subkey (p ^^^ chain) else desE s.subkey p
  (c, c)

/-- A ciphertext block decrypted in the instance's mode from the chain value `chain`; the next chain value is the
input ciphertext, never the plaintext (44_chaining.md R153, R156; 90_conflicts.md C3). -/
def decryptBlock (s : State) (chain c : Word) : Word × Word :=
  (if s.amode then desD s.subkey c ^^^ chain else desD s.subkey c, c)

/-- CHAIN after a command that chains: ECB neither reads nor writes it (10_state.md R27). -/
def chainAfter (s : State) (chain : Word) : Word := if s.amode then chain else s.chain

/-- ENC and DEC: `block` applied to DIN from CHAIN, the result to DOUT (44_chaining.md R152, R153). -/
def blockBody (block : State → Word → Word → Word × Word) (s : State) : Except Raise State := do
  requireInstance s
  requireTables transformTablesInRange
  return { s with dout := (block s s.chain s.din).1, chain := chainAfter s (block s s.chain s.din).2 }

/-- ENC (44_chaining.md R152). -/
def execEnc (s : State) : Host.Outcome State Fault Refusal := runCommand 0x10#8 (blockBody encryptBlock) s

/-- DEC (44_chaining.md R153). -/
def execDec (s : State) : Host.Outcome State Fault Refusal := runCommand 0x11#8 (blockBody decryptBlock) s

/-! ## A message in DBUF -/

/-- The loop of ENCMSG and DECMSG over `n` blocks, from block `i` on: read a block, transform it from the chain
value, write it in place, go on (44_chaining.md R155, R156; 20_memory.md R75). It gives the final chain value and
DBUF. -/
def messageLoop (block : Word → Word → Word × Word) (epoch : Nat) : Nat → Nat → Word → Memory → Word × Memory
  | 0, _, chain, m => (chain, m)
  | n + 1, i, chain, m =>
    messageLoop block epoch n (i + 1) (block chain (readBlock epoch m (8 * i))).2
      (writeBlock m (8 * i) (block chain (readBlock epoch m (8 * i))).1)

/-- ENCMSG and DECMSG: LEN / 8 blocks in place, the chain seeded from AIV (R155, R156). A message without a block
looks nothing up in a table. -/
def messageBody (block : State → Word → Word → Word × Word) (s : State) : Except Raise State := do
  requireInstance s
  checkLen s
  requireTables (s.len.toNat / 8 == 0 || transformTablesInRange)
  let r := messageLoop (block s) s.dbufEpoch (s.len.toNat / 8) 0 s.aiv s.dbuf
  return { s with chain := chainAfter s r.1, dbuf := r.2 }

/-- ENCMSG (44_chaining.md R155). -/
def execEncmsg (s : State) : Host.Outcome State Fault Refusal := runCommand 0x12#8 (messageBody encryptBlock) s

/-- DECMSG (44_chaining.md R156). -/
def execDecmsg (s : State) : Host.Outcome State Fault Refusal := runCommand 0x13#8 (messageBody decryptBlock) s

end Sys2Proof.Machine
end

