-- ==== Sys2Proof/Machine/KeySchedule.lean ====
section
/-! DEFINITION. Machine/KeySchedule.lean: the key-schedule generator and KSUB (42_key_schedule.md). -/

namespace Sys2Proof.Machine

/-- `SHIFTS[1]` to `SHIFTS[16]` (42_key_schedule.md R127). -/
def shifts : List Nat := [1, 1, 2, 2, 2, 2, 2, 2, 1, 2, 2, 2, 2, 2, 2, 1]

/-- `rotl_28(v, s)`: the left circular shift within 28 bits (00_scope.md R10, 42_key_schedule.md R129). -/
def rotl28 (v : KeyHalf) (s : Nat) : KeyHalf := v.rotateLeft s

/-- C0 and D0, the halves of PC-1's result (42_key_schedule.md R126, R128). -/
def keyHalves (key : Word) : KeyHalf × KeyHalf :=
  ((permute tablePC1 key).extractLsb' 28 28, (permute tablePC1 key).extractLsb' 0 28)

/-- The rounds of the schedule from the halves C and D on: shift each half, then PC-2 of `C ‖ D` (R128). -/
def scheduleRounds : List Nat → KeyHalf → KeyHalf → List Subkey
  | [], _, _ => []
  | n :: rest, c, d =>
    permute tablePC2 (rotl28 c n ++ rotl28 d n) :: scheduleRounds rest (rotl28 c n) (rotl28 d n)

/-- One subkey a round. -/
theorem scheduleRounds_length (ns : List Nat) (c d : KeyHalf) : (scheduleRounds ns c d).length = ns.length := by
  induction ns generalizing c d with
  | nil => rfl
  | cons n ns ih => simp [scheduleRounds, ih]

/-- `KS(key) = [K1, …, K16]` (R128). -/
def keySchedule (key : Word) : Vector Subkey 16 :=
  ⟨(scheduleRounds shifts (keyHalves key).1 (keyHalves key).2).toArray, by
    rw [List.size_toArray, scheduleRounds_length]; rfl⟩

/-- The tables the generator reads. -/
def scheduleTablesInRange : Bool := tablePC1.inRange && tablePC2.inRange

/-- KSUB by SEL; 0 and everything above 16 is illegal (42_key_schedule.md R130). -/
def ksubBody (sel : Byte) (s : State) : Except Raise State := do
  raiseWhen (!ksubSelLegal sel) (.err .illegalCmd)
  requireTables scheduleTablesInRange
  return { s with tout := ((keySchedule s.tin).toList.getD (sel.toNat - 1) 0).setWidth 64 }

/-- KSUB (42_key_schedule.md R130). -/
def execKsub (sel : Byte) (s : State) : Host.Outcome State Fault Refusal :=
  runCommand 0x24#8 (ksubBody sel) s

end Sys2Proof.Machine
end

