-- ==== Sys2Proof/Machine/Control.lean ====
section
/-! DEFINITION. Machine/Control.lean: NOP, INIT and RSTCHAIN (45_control.md). -/

namespace Sys2Proof.Machine

/-- NOP (45_control.md R170). -/
def execNop (s : State) : Host.Outcome State Fault Refusal := runCommand 0x00#8 .ok s

/-- MODE selects CFB or CTS, which INIT rejects (10_state.md R26, 45_control.md R173). -/
def modeUnsupported (m : BitVec 2) : Bool := m == 2#2 || m == 3#2

/-- INIT's key and the state after its draw: "first draw, if any" (45_control.md R172). -/
def initKey (keygen : Bool) (s : State) : Word × State := if keygen then draw64 s else (s.key, s)

/-- INIT's IV and the state after its draw: "second draw, if any", made under CBC only (45_control.md R172). -/
def initIv (ivgen : Bool) (s : State) : Word × State :=
  if ivgen && s.mode == 1#2 then draw64 s else (s.iv, s)

/-- What INIT latches: the whole cipher instance at once, and the staging registers it drew (45_control.md R172). -/
def latchInstance (key iv : Word) (s : State) : State :=
  { s with
    key := key
    iv := iv
    subkey := keySchedule key
    ksv := true
    amode := s.mode.getLsbD 0
    aiv := iv
    chain := iv }

/-- INIT's pseudocode (45_control.md R172). -/
def initBody (keygen ivgen : Bool) (s : State) : Except Raise State := do
  raiseWhen (modeUnsupported s.mode) (.err .unsupportedMode)
  requireTables scheduleTablesInRange
  let k := initKey keygen s
  let iv := initIv ivgen k.2
  return latchInstance k.1 iv.1 iv.2

/-- INIT (45_control.md R172). -/
def execInit (keygen ivgen : Bool) (s : State) : Host.Outcome State Fault Refusal :=
  runCommand 0x01#8 (initBody keygen ivgen) s

/-- RSTCHAIN (45_control.md R174). -/
def execRstchain (s : State) : Host.Outcome State Fault Refusal :=
  runCommand 0x02#8 (fun s => .ok { s with chain := s.aiv }) s

end Sys2Proof.Machine
end

