-- ==== Sys2Proof/Machine/Dispatch.lean ====
section
/-! DEFINITION. Machine/Dispatch.lean: one arm per command (30_encoding.md R83). -/

namespace Sys2Proof.Machine

/-- What a command does, once its word is in CMD: the `case` of 30_encoding.md R80. -/
def exec (i : Instr) (s : State) : Host.Outcome State Fault Refusal :=
  match i with
  | .nop => Sys2Proof.Machine.execNop s
  | .init keygen ivgen => Sys2Proof.Machine.execInit keygen ivgen s
  | .rstchain => Sys2Proof.Machine.execRstchain s
  | .enc => Sys2Proof.Machine.execEnc s
  | .dec => Sys2Proof.Machine.execDec s
  | .encmsg => Sys2Proof.Machine.execEncmsg s
  | .decmsg => Sys2Proof.Machine.execDecmsg s
  | .perm sel => Sys2Proof.Machine.execPerm sel s
  | .sbox sel => Sys2Proof.Machine.execSbox sel s
  | .ffunc => Sys2Proof.Machine.execFfunc s
  | .round => Sys2Proof.Machine.execRound s
  | .ksub sel => Sys2Proof.Machine.execKsub sel s
  | .crypt decrypt => Sys2Proof.Machine.execCrypt decrypt s

end Sys2Proof.Machine
end

