-- ==== Sys2Proof/Machine/HostPort.lean ====
section
/-! DEFINITION. Machine/HostPort.lean: what each transaction of the host does (20_memory.md R62 to R65, 30_encoding.md
R80), reset (70_reset_and_hazards.md R210), and the host's pseudo-instructions (30_encoding.md R90). -/

namespace Sys2Proof.Machine

/-- `Execute(w)`: the command `w` encodes, or ILLEGAL_CMD where it encodes none (30_encoding.md R80, R84; log
entry 11). -/
def execute (w : Word) (s : State) : Host.Outcome State Fault Refusal :=
  match decode w with
  | .ok i => exec i s
  | .error _ => .next (raise (opField w) (.err .illegalCmd) s)

/-- A write to CMD: ignored entirely while FAULT is set (60_exceptions.md R190); otherwise the word is stored,
legal or not, and executed (10_state.md R22). -/
def writeCmd (w : Word) (s : State) : Host.Outcome State Fault Refusal :=
  if s.fault then .next s else execute w { s with cmd := w }

/-- `BufRead(a)`: beyond N_BUF it returns 0 (20_memory.md R64; the offset is a Nat, log entry 9). -/
def bufRead (s : State) (a : Nat) : Byte := if a < s.nBuf then dbufByte s a else 0

/-- `BufWrite(a, b)`: beyond N_BUF it changes nothing (20_memory.md R65). -/
def bufWrite (a : Nat) (b : Byte) (s : State) : State :=
  if a < s.nBuf then { s with dbuf := s.dbuf.write a b } else s

/-- Reset asserted (70_reset_and_hazards.md R210): the state of `State.reset`, with DBUF unspecified anew. The
implementation's N_BUF, what the environment still offers, and the count of the draws made are not the machine's to
reset (log entry 6). -/
def hostReset (s : State) : State :=
  { State.reset with
    nBuf := s.nBuf
    dbufEpoch := s.dbufEpoch + 1
    entropy := s.entropy
    drawCount := s.drawCount
    pending := s.pending }

/-- One transaction, and the command it starts, whole (00_scope.md R6). -/
def transact (t : Transaction) (s : State) : Host.Outcome State Fault Refusal :=
  match t with
  | .regRead idx => .next { s with reply := .word (readReg s idx) }
  | .regWrite idx v =>
    if idx = 0x00#8 then writeCmd v { s with reply := .nothing }
    else .next { writeReg s idx v with reply := .nothing }
  | .bufRead a => .next { s with reply := .byte (bufRead s a) }
  | .bufWrite a b => .next { bufWrite a b s with reply := .nothing }
  | .reset => .next (hostReset s)

/-- Nothing offered: "between commands it is idle and holds its state" (60_exceptions.md R204). -/
def idle (s : State) : State := { s with reply := .nothing }

/-! ## The host's notation (30_encoding.md R88 to R90) -/

/-- The indices of the registers the host writes by name (10_state.md R21). -/
def idxCmd : Byte := 0x00#8
def idxStatus : Byte := 0x01#8
def idxKey : Byte := 0x02#8
def idxIv : Byte := 0x03#8
def idxMode : Byte := 0x04#8
def idxLen : Byte := 0x08#8

/-- `wr CMD, encoding` (R88). -/
def hostCommand (i : Instr) : Transaction := .regWrite idxCmd (encode i)

/-- `bwrq a, v` (R90). -/
def pseudoBwrq (a : Nat) (v : Word) : List Transaction :=
  (List.range 8).map fun k => .bufWrite (a + k) (byteOf (n := 8) v k)

/-- `brdq a` (R90). The host concatenates the eight replies. -/
def pseudoBrdq (a : Nat) : List Transaction := (List.range 8).map fun k => .bufRead (a + k)

/-- `construct k, m` (R90): with a key supplied. -/
def pseudoConstruct (k m : Word) : List Transaction :=
  [.regWrite idxKey k, .regWrite idxMode m, hostCommand (.init false (m == 1))]

/-- `construct_random m` (R90): with a key drawn. -/
def pseudoConstructRandom (m : Word) : List Transaction :=
  [.regWrite idxMode m, hostCommand (.init true (m == 1))]

/-- `construct_rx k, m, iv` (R90): the receiver's side. -/
def pseudoConstructRx (k m iv : Word) : List Transaction :=
  [.regWrite idxKey k, .regWrite idxMode m, .regWrite idxIv iv, hostCommand (.init false false)]

/-- `encrypt n` (R90). -/
def pseudoEncrypt (n : Word) : List Transaction :=
  [.regWrite idxLen n, hostCommand .encmsg, .regRead idxStatus]

/-- `decrypt n` (R90). -/
def pseudoDecrypt (n : Word) : List Transaction :=
  [.regWrite idxLen n, hostCommand .decmsg, .regRead idxStatus]

end Sys2Proof.Machine
end

