-- ==== Sys2Proof/Machine/Step.lean ====
section
/-! DEFINITION. Machine/Step.lean: one step is the host's next transaction, whole (00_scope.md R6; no time
passes in the model, log entry 10). -/

namespace Sys2Proof.Machine

/-- One step: the transaction the host offers next, or none (log entry 1). -/
def step (s : State) : Host.Outcome State Fault Refusal :=
  match s.pending with
  | [] => .next (idle s)
  | t :: rest => transact t { s with pending := rest }

/-- The command word whose bits are `w`, `nbits` of them, written to CMD by the host's very next transaction: DESCORE
fetches nothing (20_memory.md R77), so this stands for the host that issues the command (log entry 1). -/
def State.withFetchWord (s : State) (nbits w : Nat) : State :=
  { s with pending := .regWrite idxCmd (BitVec.ofNat 64 (w % 2 ^ nbits)) :: s.pending }

end Sys2Proof.Machine
end

