-- ==== Sys2Proof/Safety.lean ====
section
/-! DEFINITION. Safety.lean: what counts as a safe run, and the few notions the claims are stated in. -/

namespace Sys2Proof.Machine

/-- What every state of a run satisfies: N_BUF is a size the spec allows (00_scope.md R7), DBUF is in its canonical
form and inside the buffer (20_memory.md R61), STATUS.ERR holds one of the six codes (60_exceptions.md R193), no
table fault has occurred (92_eei_decisions.md D33), and where no INIT has succeeded since reset the cipher
instance's registers still hold their reset values (10_state.md R34, 70_reset_and_hazards.md R210). -/
structure State.Inv (s : State) : Prop where
  size : s.nBuf % 8 = 0 ∧ 8 ≤ s.nBuf
  canonical : s.dbuf.wf = true
  inside : s.dbuf.below s.nBuf = true
  errKnown : s.err.toNat ≤ 5
  noFault : s.fault = false
  uninitialised : s.ksv = false → s.subkey = Vector.replicate 16 0 ∧ s.aiv = 0 ∧ s.amode = false

/-- The command the next step runs, if it runs one: the host writes a word that encodes it to CMD, and FAULT does
not stop it (30_encoding.md R80). -/
def State.nextCommand (s : State) : Option Instr :=
  match s.pending with
  | .regWrite idx w :: _ =>
    if idx = idxCmd ∧ s.fault = false then
      match decode w with
      | .ok i => some i
      | .error _ => none
    else none
  | _ => none

/-- The next step is a reset (70_reset_and_hazards.md R210). -/
def State.nextIsReset (s : State) : Bool :=
  match s.pending with
  | .reset :: _ => true
  | _ => false

/-- STATUS.ERR as the order of 60_exceptions.md R194 decides it for the word `w` written to CMD while FAULT is 0,
the table check apart: the code of the first check that fails, or 0. -/
def firstFailingCheck (w : Word) (s : State) : BitVec 4 :=
  let op := (opField w).toNat
  if !legal w then 1
  else if op = 0x01 ∧ (s.mode = 2#2 ∨ s.mode = 3#2) then 2
  else if (op = 0x10 ∨ op = 0x11 ∨ op = 0x12 ∨ op = 0x13 ∨ op = 0x25) ∧ s.ksv = false then 3
  else if (op = 0x12 ∨ op = 0x13) ∧ s.len.toNat % 8 ≠ 0 then 4
  else if (op = 0x12 ∨ op = 0x13) ∧ s.nBuf < s.len.toNat then 5
  else 0

/-- The blocks of DBUF from block `i` on, `n` of them: block `k` is the eight bytes at `8k` (20_memory.md R61). -/
def blocksFrom (epoch : Nat) (m : Memory) : Nat → Nat → List Word
  | 0, _ => []
  | n + 1, i => readBlock epoch m (8 * i) :: blocksFrom epoch m n (i + 1)

/-- The `n` blocks of the message in DBUF. -/
def messageBlocks (s : State) (n : Nat) : List Word := blocksFrom s.dbufEpoch s.dbuf n 0

/-- The transactions of a host that runs the block command `i` on each block in turn: write DIN, run it, read DOUT
(44_chaining.md R154). -/
def blockTransactions (i : Instr) : List Word → List Transaction
  | [] => []
  | p :: rest => .regWrite 0x06#8 p :: hostCommand i :: .regRead 0x07#8 :: blockTransactions i rest

/-- `k` steps, and the words they returned to the host, in order. -/
def runReplies : Nat → State → Option (List Word × State)
  | 0, s => some ([], s)
  | k + 1, s =>
    match step s with
    | .next t =>
      match runReplies k t with
      | some (ws, u) =>
        match t.reply with
        | .word v => some (v :: ws, u)
        | _ => some (ws, u)
      | none => none
    | _ => none

end Sys2Proof.Machine
end

