-- ==== Sys2Proof/Certificates/Slice0/Obligations.lean ====
section
/-! DEFINITION. Certificates/Slice0/Obligations.lean: the statements for the provers. Each says which rule of spec/ it
rests on. A statement about a free value (DBUF's unwritten bytes, a draw, N_BUF) holds for every value of it. The
host's transactions stand in `pending`, and what one returns in `reply`: both fields are the model's (log entries 1, 2). -/

section
open Sys2Proof Sys2Proof.Machine

/-! ## Encoding -/

/-- Decoding the word of a well-formed command gives the command, with its SEL and flags at every legal value. -/
def Obligations.EncodeThenDecodeGivesTheCommand : Prop :=
  ∀ i : Instr, i.wf = true → decode (encode i) = .ok i

/-- A word decodes to nothing but the well-formed command whose word it is: no bit of a command word is ignored. -/
def Obligations.DecodedWordIsTheEncoding : Prop :=
  ∀ (w : Word) (i : Instr), decode w = .ok i → i.wf = true ∧ encode i = w

/-- 30_encoding.md R84 and 60_exceptions.md R187: the words of `Legal` are exactly the ones that decode, and writing
any other to CMD changes only STATUS.ERR, STATUS.LASTOP and CMD. -/
def Obligations.IllegalWordRaisesIllegalCmd : Prop :=
  (∀ w : Word, legal w = true ↔ ∃ i, decode w = .ok i) ∧
  ∀ (s : State) (w : Word) (rest : List Transaction),
    s.pending = .regWrite 0x00#8 w :: rest → s.fault = false → legal w = false →
      step s = .next { s with
        pending := rest, reply := .nothing, cmd := w, err := 1, lastop := w.extractLsb' 0 8 }

/-- Command words written out from 30_encoding.md R89 decode to their commands, and the illegal words of
95_test_vectors.md to none. -/
def Obligations.SampleCommandWordsDecode : Prop :=
  decode 0x00000000#64 = .ok .nop ∧ decode 0x00030001#64 = .ok (.init true true)
    ∧ decode 0x00010001#64 = .ok (.init true false) ∧ decode 0x00000002#64 = .ok .rstchain
    ∧ decode 0x00000010#64 = .ok .enc ∧ decode 0x00000011#64 = .ok .dec
    ∧ decode 0x00000012#64 = .ok .encmsg ∧ decode 0x00000013#64 = .ok .decmsg
    ∧ decode 0x00000520#64 = .ok (.perm 5) ∧ decode 0x00000721#64 = .ok (.sbox 7)
    ∧ decode 0x00000022#64 = .ok .ffunc ∧ decode 0x00000023#64 = .ok .round
    ∧ decode 0x00001024#64 = .ok (.ksub 16) ∧ decode 0x00010025#64 = .ok (.crypt true)
    ∧ decode 0x00000620#64 = .error .selector ∧ decode 0x00010020#64 = .error .undefinedFlag
    ∧ decode 0x00000024#64 = .error .selector ∧ decode 0x00020025#64 = .error .undefinedFlag
    ∧ decode 0x00000003#64 = .error .unassignedOp ∧ decode 0x0000000100000010#64 = .error .reservedBits

/-! ## A step -/

/-- A write of a command's word to CMD, while FAULT is 0, runs that command on the state with the word stored
(10_state.md, CMD; 30_encoding.md, the command word). That the host's transactions stand in `pending` is the model's
own (log entry 1). -/
def Obligations.StepRunsTheDecodedCommand : Prop :=
  ∀ (s : State) (w : Word) (rest : List Transaction) (i : Instr),
    s.pending = .regWrite 0x00#8 w :: rest → s.fault = false → decode w = .ok i →
      step s = exec i { s with pending := rest, reply := .nothing, cmd := w }

/-- No transaction and no command stops the machine (20_memory.md, atomicity and the address map; 60_exceptions.md, traps
and interrupts). Without a transaction it holds its state (60_exceptions.md R204, "Between commands it is idle and holds
its state"); that this is a step of its own, which returns nothing, is the model's choice (log entries 1 and 2, DESIGN
CHOICE: 00_scope.md R6 knows no such step). -/
def Obligations.EveryStepAnswersANextState : Prop :=
  (∀ s : State, ∃ t, step s = .next t) ∧
  ∀ s : State, s.pending = [] → step s = .next { s with reply := .nothing }

/-- 70_reset_and_hazards.md R210: what reset leaves, at power-up (`State.reset`) and when the host asserts it. DBUF's
bytes are the free values of log entry 4. -/
def Obligations.ResetLeavesTheStatedState : Prop :=
  ∀ t : State, (t = State.reset ∨ ∃ s rest, s.pending = .reset :: rest ∧ step s = .next t) →
    t.cmd = 0 ∧ t.key = 0 ∧ t.iv = 0 ∧ t.chain = 0 ∧ t.din = 0 ∧ t.dout = 0 ∧ t.len = 0 ∧ t.tin = 0
      ∧ t.taux = 0 ∧ t.tout = 0 ∧ t.aiv = 0 ∧ t.mode = 0
      ∧ (∀ k : Fin 16, t.subkey[k] = 0)
      ∧ t.err = 0 ∧ t.ksv = false ∧ t.amode = false ∧ t.fault = false ∧ t.lastop = 0
      ∧ ∀ a, dbufByte t a = Config.dbufUnwritten t.dbufEpoch a

/-- 20_memory.md R62: what RegRead returns for each of the 256 indices; it changes no state. -/
def Obligations.RegisterReadsReturnTheirRegister : Prop :=
  ∀ (s : State) (idx : Byte) (rest : List Transaction), s.pending = .regRead idx :: rest →
    ∃ v : Word, step s = .next { s with pending := rest, reply := .word v }
      ∧ (idx = 0x00#8 → v = s.cmd)
      ∧ (idx = 0x01#8 → v.toNat = 256 * s.lastop.toNat + 128 * s.fault.toNat + 32 * s.amode.toNat
          + 16 * s.ksv.toNat + s.err.toNat)
      ∧ (idx = 0x02#8 → v = s.key) ∧ (idx = 0x03#8 → v = s.iv)
      ∧ (idx = 0x04#8 → v.toNat = s.mode.toNat)
      ∧ (idx = 0x05#8 → v = s.chain) ∧ (idx = 0x06#8 → v = s.din) ∧ (idx = 0x07#8 → v = s.dout)
      ∧ (idx = 0x08#8 → v = s.len) ∧ (idx = 0x09#8 → v = s.tin) ∧ (idx = 0x0A#8 → v = s.taux)
      ∧ (idx = 0x0B#8 → v = s.tout) ∧ (idx = 0x0C#8 → v = s.aiv)
      ∧ (∀ k : Fin 16, idx.toNat = 0x10 + k.val → v.toNat = (s.subkey[k]).toNat)
      ∧ ((0x0D ≤ idx.toNat ∧ idx.toNat ≤ 0x0F) ∨ 0x20 ≤ idx.toNat → v = 0)

/-- 20_memory.md R63: what RegWrite does for each of the 256 indices. -/
def Obligations.RegisterWritesStoreTheirRegister : Prop :=
  ∀ (s : State) (v : Word) (rest : List Transaction) (idx : Byte),
    s.pending = .regWrite idx v :: rest →
    let u : State := { s with pending := rest, reply := .nothing }
    (idx = 0x00#8 → s.fault = false → step s = execute v { u with cmd := v })
      ∧ (idx = 0x00#8 → s.fault = true → step s = .next u)
      ∧ (idx = 0x02#8 → step s = .next { u with key := v })
      ∧ (idx = 0x03#8 → step s = .next { u with iv := v })
      ∧ (idx = 0x04#8 → step s = .next { u with mode := v.extractLsb' 0 2 })
      ∧ (idx = 0x05#8 → step s = .next { u with chain := v })
      ∧ (idx = 0x06#8 → step s = .next { u with din := v })
      ∧ (idx = 0x08#8 → step s = .next { u with len := v })
      ∧ (idx = 0x09#8 → step s = .next { u with tin := v })
      ∧ (idx = 0x0A#8 → step s = .next { u with taux := v })
      ∧ (idx.toNat ∉ [0x00, 0x02, 0x03, 0x04, 0x05, 0x06, 0x08, 0x09, 0x0A] → step s = .next u)

/-- 20_memory.md R64: BufRead. -/
def Obligations.BufferReadsReturnTheByte : Prop :=
  ∀ (s : State) (a : Nat) (rest : List Transaction), s.pending = .bufRead a :: rest →
    (a < s.nBuf → step s = .next { s with pending := rest, reply := .byte (dbufByte s a) })
      ∧ (s.nBuf ≤ a → step s = .next { s with pending := rest, reply := .byte 0 })

/-- 20_memory.md R65: BufWrite sets the one byte when it lies in DBUF, and otherwise changes nothing. -/
def Obligations.BufferWritesStoreTheByte : Prop :=
  ∀ (s : State) (a : Nat) (b : Byte) (rest : List Transaction), s.pending = .bufWrite a b :: rest →
    ∃ t, step s = .next t
      ∧ t = { s with pending := rest, reply := .nothing, dbuf := t.dbuf }
      ∧ (a < s.nBuf → dbufByte t a = b ∧ ∀ x, x ≠ a → dbufByte t x = dbufByte s x)
      ∧ (s.nBuf ≤ a → t.dbuf = s.dbuf)

/-- The byte order of DBUF (20_memory.md, byte order; 30_encoding.md, pseudo-instructions): a 64-bit block stored byte
by byte, its most significant byte first, is the block a command reads there, and nothing else changes. -/
def Obligations.BlockStoredByteByByteIsRead : Prop :=
  ∀ (s : State) (a : Nat) (v : Word), a + 8 ≤ s.nBuf → s.pending = pseudoBwrq a v →
    ∃ t, runReplies 8 s = some ([], t)
      ∧ readBlock t.dbufEpoch t.dbuf a = v
      ∧ (∀ k, k < 8 → dbufByte t (a + k) = v.extractLsb' (56 - 8 * k) 8)
      ∧ (∀ x, x < a ∨ a + 8 ≤ x → dbufByte t x = dbufByte s x)
      ∧ t = { s with pending := [], reply := .nothing, dbuf := t.dbuf }

/-! ## Invariants and whole-machine rules -/

/-- Every step keeps `State.Inv`: the size of DBUF, its canonical form, the codes of STATUS.ERR, FAULT = 0, and the
blank cipher instance before the first INIT. -/
def Obligations.EveryStepKeepsTheInvariant : Prop :=
  ∀ s t : State, s.Inv → step s = .next t → t.Inv

/-- The state after reset meets `State.Inv`. -/
def Obligations.ResetStateMeetsTheInvariant : Prop := State.reset.Inv

/-- 60_exceptions.md R185: a CMD write while FAULT is 0 records the word's OP and one code, that of the first check
that fails in the order of R194. -/
def Obligations.ErrIsTheFirstFailingCode : Prop :=
  ∀ (s : State) (w : Word) (rest : List Transaction),
    s.pending = .regWrite 0x00#8 w :: rest → s.fault = false →
      ∃ t, step s = .next t ∧ t.lastop = w.extractLsb' 0 8 ∧ t.err = firstFailingCheck w s

/-- 60_exceptions.md R188: without a cipher instance the five commands that use one record NOT_INITIALISED and change
nothing else; no other command raises it. -/
def Obligations.NotInitialisedWithoutAnInstance : Prop :=
  (∀ (s : State) (i : Instr), i ∈ [.enc, .dec, .encmsg, .decmsg, .crypt false, .crypt true] → s.ksv = false →
    exec i s = .next { s with err := 3, lastop := i.opcode }) ∧
  ∀ (s t : State) (i : Instr), i ∉ [.enc, .dec, .encmsg, .decmsg, .crypt false, .crypt true] →
    exec i s = .next t → t.err ≠ 3

/-- 60_exceptions.md R189: INIT with MODE CFB or CTS records UNSUPPORTED_MODE and changes nothing else; no other
command raises it. -/
def Obligations.UnsupportedModeAtInitOnly : Prop :=
  (∀ (s : State) (kg ig : Bool), s.mode = 2#2 ∨ s.mode = 3#2 →
    exec (.init kg ig) s = .next { s with err := 2, lastop := 0x01#8 }) ∧
  ∀ (s t : State) (i : Instr), exec i s = .next t → t.err = 2 →
    (s.mode = 2#2 ∨ s.mode = 3#2) ∧ ∃ kg ig, i = .init kg ig

/-- 60_exceptions.md R191: a LEN that is no multiple of 8 at ENCMSG or DECMSG records INVALID_INPUT_LENGTH and changes
nothing else; no other command raises it. -/
def Obligations.MalformedLengthIsRejected : Prop :=
  (∀ (s : State) (i : Instr), i ∈ [.encmsg, .decmsg] → s.ksv = true → s.len.toNat % 8 ≠ 0 →
    exec i s = .next { s with err := 4, lastop := i.opcode }) ∧
  ∀ (s t : State) (i : Instr), exec i s = .next t → t.err = 4 →
    s.len.toNat % 8 ≠ 0 ∧ i ∈ [.encmsg, .decmsg]

/-- 60_exceptions.md R192: a LEN above N_BUF, a multiple of 8, at ENCMSG or DECMSG records BUFFER_OVERRUN and changes
nothing else; no other command raises it. -/
def Obligations.OverlongMessageIsRejected : Prop :=
  (∀ (s : State) (i : Instr), i ∈ [.encmsg, .decmsg] → s.ksv = true → s.len.toNat % 8 = 0 →
    s.nBuf < s.len.toNat → exec i s = .next { s with err := 5, lastop := i.opcode }) ∧
  ∀ (s t : State) (i : Instr), exec i s = .next t → t.err = 5 →
    s.len.toNat % 8 = 0 ∧ s.nBuf < s.len.toNat ∧ i ∈ [.encmsg, .decmsg]

/-- 70_reset_and_hazards.md R219: a command that raises leaves every result as it was; indeed everything but ERR and
LASTOP. -/
def Obligations.RaisingCommandChangesOnlyStatus : Prop :=
  ∀ (s t : State) (i : Instr), exec i s = .next t → t.err ≠ 0 →
    t = { s with err := t.err, lastop := i.opcode }

/-- The fatal table fault (60_exceptions.md, error conditions): its effect, that it makes every CMD write void, and that
only reset clears it. That the fault is a next state, and that ERR keeps its value in it, is the model's deduction (log
entry 7, DEDUCED: 60_exceptions.md R190 gives "no ERR code"). -/
def Obligations.FaultStopsCommandsUntilReset : Prop :=
  (∀ (op : Byte) (body : State → Except Raise State) (s : State), body s = .error .tableFault →
    runCommand op body s = .next { s with fault := true, lastop := op }) ∧
  (∀ (s : State) (w : Word) (rest : List Transaction), s.fault = true →
    s.pending = .regWrite 0x00#8 w :: rest → step s = .next { s with pending := rest, reply := .nothing }) ∧
  ∀ s t : State, s.fault = true → step s = .next t → t.fault = !s.nextIsReset

/-- 40_permutation.md R101: a table with an entry out of range is a table fault, every entry of the spec's tables is in
range, and no command raises a table fault. -/
def Obligations.NoCommandRaisesTableFault : Prop :=
  (∀ (w n : Nat) (t : PermTable w n) (s : State),
    (∃ p ∈ t.entries.toList, p < 1 ∨ w < p) → permWith t s = .error .tableFault) ∧
  (∀ p ∈ tableIP.entries.toList, 1 ≤ p ∧ p ≤ 64) ∧ (∀ p ∈ tableIPInv.entries.toList, 1 ≤ p ∧ p ≤ 64) ∧
  (∀ p ∈ tableE.entries.toList, 1 ≤ p ∧ p ≤ 32) ∧ (∀ p ∈ tableP.entries.toList, 1 ≤ p ∧ p ≤ 32) ∧
  (∀ p ∈ tablePC1.entries.toList, 1 ≤ p ∧ p ≤ 64) ∧ (∀ p ∈ tablePC2.entries.toList, 1 ≤ p ∧ p ≤ 56) ∧
  ∀ (s t : State) (i : Instr), exec i s = .next t → t.fault = s.fault

/-- 10_state.md R34: the cipher instance changes in no step but a successful INIT's (and reset's); a failed INIT leaves
it; a successful one replaces the whole of it. -/
def Obligations.InstanceChangesOnlyBySuccessfulInit : Prop :=
  (∀ s t : State, step s = .next t → s.nextIsReset = false →
    ((∀ kg ig, s.nextCommand ≠ some (.init kg ig)) ∨ t.err ≠ 0) →
    t.subkey = s.subkey ∧ t.ksv = s.ksv ∧ t.amode = s.amode ∧ t.aiv = s.aiv) ∧
  ∀ (s t : State) (kg ig : Bool), step s = .next t → s.nextCommand = some (.init kg ig) → t.err = 0 →
    t.subkey = keySchedule t.key ∧ t.ksv = true ∧ (t.amode = true ↔ s.mode = 1#2) ∧ t.aiv = t.iv

/-- Which registers each command may write (10_state.md, register map and cipher-instance state; 30_encoding.md,
operands); the draws, which only INIT makes, stand in `entropy` and `drawCount`, the model's fields (log entry 5). -/
def Obligations.CommandsWriteOnlyTheirRegisters : Prop :=
  ∀ (s t : State) (i : Instr), exec i s = .next t →
    (t.cmd = s.cmd ∧ t.mode = s.mode ∧ t.din = s.din ∧ t.len = s.len ∧ t.tin = s.tin ∧ t.taux = s.taux
      ∧ t.nBuf = s.nBuf)
    ∧ ((∀ kg ig, i ≠ .init kg ig) → t.key = s.key ∧ t.iv = s.iv
      ∧ t.subkey = s.subkey ∧ t.ksv = s.ksv ∧ t.amode = s.amode ∧ t.aiv = s.aiv
      ∧ t.entropy = s.entropy ∧ t.drawCount = s.drawCount)
    ∧ (i ∉ [.enc, .dec] → t.dout = s.dout)
    ∧ (i ∈ [.nop, .rstchain, .enc, .dec, .encmsg, .decmsg] ∨ (∃ kg ig, i = .init kg ig) → t.tout = s.tout)
    ∧ (i ∉ [.encmsg, .decmsg] → t.dbuf = s.dbuf)
    ∧ (i ∉ [.rstchain, .enc, .dec, .encmsg, .decmsg] → (∀ kg ig, i ≠ .init kg ig) → t.chain = s.chain)
    ∧ (i ∈ [.enc, .dec, .encmsg, .decmsg] → s.amode = false → t.chain = s.chain)

/-- 70_reset_and_hazards.md R215: KEY, IV and MODE are read only by INIT: what they hold changes nothing that another
command does, and a write to any of them changes nothing about the instance. -/
def Obligations.StagingRegistersAreReadOnlyByInit : Prop :=
  (∀ (s t : State) (i : Instr) (k v : Word) (m : BitVec 2), (∀ kg ig, i ≠ .init kg ig) → exec i s = .next t →
    exec i { s with key := k, iv := v, mode := m } = .next { t with key := k, iv := v, mode := m }) ∧
  ∀ (s t : State) (idx : Byte) (v : Word) (rest : List Transaction), s.pending = .regWrite idx v :: rest →
    idx ∈ [0x02#8, 0x03#8, 0x04#8] → step s = .next t →
      t.subkey = s.subkey ∧ t.ksv = s.ksv ∧ t.amode = s.amode ∧ t.aiv = s.aiv ∧ t.chain = s.chain

/-- The operand bits a command does not use never affect its result (30_encoding.md, operands; 92_eei_decisions.md D17):
the unused bits of TIN for SBOX, FFUNC and PERM E, P and PC-2, and of TAUX for FFUNC and ROUND. -/
def Obligations.UnusedOperandBitsAreIgnored : Prop :=
  ∀ (s : State) (x y : Word),
    (x.extractLsb' 0 32 = s.tin.extractLsb' 0 32 → y.extractLsb' 0 48 = s.taux.extractLsb' 0 48 →
      ∀ t, exec .ffunc s = .next t → exec .ffunc { s with tin := x, taux := y } = .next { t with tin := x, taux := y })
    ∧ (y.extractLsb' 0 48 = s.taux.extractLsb' 0 48 →
      ∀ t, exec .round s = .next t → exec .round { s with taux := y } = .next { t with taux := y })
    ∧ (x.extractLsb' 0 6 = s.tin.extractLsb' 0 6 →
      ∀ j t, exec (.sbox j) s = .next t → exec (.sbox j) { s with tin := x } = .next { t with tin := x })
    ∧ (x.extractLsb' 0 32 = s.tin.extractLsb' 0 32 →
      ∀ j t, j = 2 ∨ j = 3 → exec (.perm j) s = .next t →
        exec (.perm j) { s with tin := x } = .next { t with tin := x })
    ∧ (x.extractLsb' 0 56 = s.tin.extractLsb' 0 56 →
      ∀ t, exec (.perm 5) s = .next t → exec (.perm 5) { s with tin := x } = .next { t with tin := x })

/-! ## The data path -/

/-- 40_permutation.md R104. -/
def Obligations.IpAndIpInverseUndoEachOther : Prop :=
  ∀ x : Word, permute tableIPInv (permute tableIP x) = x ∧ permute tableIP (permute tableIPInv x) = x

/-- 43_feistel.md R142: the block transform is undone by the reversed schedule, for every schedule; and no schedule,
in whatever order, makes the transform raise. -/
def Obligations.ReversedScheduleUndoesTheTransform : Prop :=
  (∀ (ks : List Subkey) (x : Word), transform (transform x ks) ks.reverse = x) ∧
  (∀ (ks : Vector Subkey 16) (x : Word), desD ks (desE ks x) = x ∧ desE ks (desD ks x) = x) ∧
  ∀ (s : State) (ks : Vector Subkey 16) (i : Instr), i ∈ [.enc, .dec, .crypt false, .crypt true] → s.ksv = true →
    ∃ t, exec i { s with subkey := ks } = .next t ∧ t.err = 0

/-- 42_key_schedule.md R131: the key bits at positions 8, 16, …, 64 do not affect the schedule. -/
def Obligations.ScheduleIgnoresTheParityBits : Prop :=
  ∀ k k' : Word, (∀ p, 1 ≤ p → p ≤ 64 → p % 8 ≠ 0 → posBit k p = posBit k' p) → keySchedule k = keySchedule k'

/-- 42_key_schedule.md R127: the shift counts, and that they bring each half back to where it began. -/
def Obligations.ShiftCountsBringTheHalvesBack : Prop :=
  shifts.length = 16
    ∧ (∀ i, 1 ≤ i → i ≤ 16 → shifts.getD (i - 1) 0 = if i ∈ [1, 2, 9, 16] then 1 else 2)
    ∧ shifts.sum = 28
    ∧ ∀ c : KeyHalf, shifts.foldl rotl28 c = c

/-- 42_key_schedule.md R129: the shifts are circular within each half, and Ki is PC-2 of the halves shifted apart from
one another by the counts so far. -/
def Obligations.HalvesAreShiftedSeparately : Prop :=
  (∀ v : KeyHalf, rotl28 v 1 = v.extractLsb' 0 27 ++ v.extractLsb' 27 1
    ∧ rotl28 v 2 = v.extractLsb' 0 26 ++ v.extractLsb' 26 2) ∧
  ∀ (key : Word) (i : Fin 16), (keySchedule key)[i] =
    permute tablePC2 ((shifts.take (i.val + 1)).foldl rotl28 ((permute tablePC1 key).extractLsb' 28 28)
      ++ (shifts.take (i.val + 1)).foldl rotl28 ((permute tablePC1 key).extractLsb' 0 28))

/-- 42_key_schedule.md R132: keys whose halves are constant give 16 equal subkeys; they are the four keys of the rule
up to the discarded positions; INIT accepts them. -/
def Obligations.ConstantHalvesGiveEqualSubkeys : Prop :=
  ∀ key : Word,
    let constant : Prop := ((keyHalves key).1 = 0 ∨ (keyHalves key).1 = BitVec.allOnes 28)
      ∧ ((keyHalves key).2 = 0 ∨ (keyHalves key).2 = BitVec.allOnes 28)
    (constant → ∀ i : Fin 16, (keySchedule key)[i] = (keySchedule key)[(0 : Fin 16)])
    ∧ (constant ↔ ∃ k ∈ ([0x0101010101010101, 0xFEFEFEFEFEFEFEFE, 0x1F1F1F1F0E0E0E0E, 0xE0E0E0E0F1F1F1F1]
        : List Word), ∀ p, 1 ≤ p → p ≤ 64 → p % 8 ≠ 0 → posBit key p = posBit k p)
    ∧ (constant → ∀ s : State, s.key = key → (s.mode = 0#2 ∨ s.mode = 1#2) →
        ∃ t, exec (.init false false) s = .next t ∧ t.err = 0 ∧ t.subkey = keySchedule key)

/-- 43_feistel.md R136: output `j` of the S-boxes occupies `S[31-4j : 28-4j]`. -/
def Obligations.SboxOutputsArePackedByFourBits : Prop :=
  ∀ (x : Subkey) (j : Fin 8),
    (substitute x).extractLsb' (28 - 4 * j.val) 4 = sbox j (x.extractLsb' (42 - 6 * j.val) 6)

/-- Complementing the key and the block complements the result, as the vectors of 95_test_vectors.md section 2.6 show on
one pair ("This follows from the rules and is a quick check of the E and PC-1 tables"). -/
def Obligations.ComplementedKeyAndBlockGiveTheComplement : Prop :=
  ∀ key x : Word, desE (keySchedule (~~~ key)) (~~~ x) = ~~~ desE (keySchedule key) x

/-- The known answers of 95_test_vectors.md: the FIPS walk-through and the source's concrete scenario. -/
def Obligations.KnownAnswersHold : Prop :=
  desE (keySchedule 0x133457799BBCDFF1#64) 0x0123456789ABCDEF#64 = 0x85E813540F0AB405#64
    ∧ desE (keySchedule 0x546573744B657973#64) 0x4D65737361676521#64 = 0xD71952E87AAC55B9#64
    ∧ desD (keySchedule 0x546573744B657973#64) 0xD71952E87AAC55B9#64 = 0x4D65737361676521#64

/-! ## What each command does -/

/-- NOP (45_control.md): success, and nothing else. -/
def Obligations.NopReportsSuccess : Prop :=
  ∀ s : State, exec .nop s = .next { s with err := 0, lastop := 0x00#8 }

/-- RSTCHAIN (45_control.md): CHAIN is the instance's IV again. -/
def Obligations.RstchainCopiesTheInstanceIv : Prop :=
  ∀ s : State, exec .rstchain s = .next { s with chain := s.aiv, err := 0, lastop := 0x02#8 }

/-- INIT (45_control.md): with MODE ECB or CBC it latches a whole instance, from KEY and IV where it draws none.
Where draws come from is the model's (`entropy`, `drawCount`: log entry 5). -/
def Obligations.InitLatchesTheInstance : Prop :=
  ∀ (s : State) (kg ig : Bool), s.mode = 0#2 ∨ s.mode = 1#2 →
    ∃ t, exec (.init kg ig) s = .next t
      ∧ t.subkey = keySchedule t.key ∧ t.ksv = true ∧ (t.amode = true ↔ s.mode = 1#2)
      ∧ t.aiv = t.iv ∧ t.chain = t.iv ∧ t.err = 0 ∧ t.lastop = 0x01#8
      ∧ (kg = false → t.key = s.key)
      ∧ ((ig = false ∨ s.mode = 0#2) → t.iv = s.iv)
      ∧ (kg = false → (ig = false ∨ s.mode = 0#2) → t.entropy = s.entropy ∧ t.drawCount = s.drawCount)
      ∧ t = { s with
          key := t.key, iv := t.iv, subkey := t.subkey, ksv := t.ksv, amode := t.amode, aiv := t.aiv
          chain := t.chain, err := t.err, lastop := t.lastop, entropy := t.entropy, drawCount := t.drawCount }

/-- INIT's draws (45_control.md; 00_scope.md, pseudocode primitives; 60_exceptions.md, privilege and platform): the key
first, then the IV, the IV under CBC only. Where a draw comes from is the model's form of a free input (log entry 5): an
answer that waits in `entropy`, and where none waits the free value `Config.entropy` of the draw's number, of which
nothing is known. -/
def Obligations.InitDrawsTheKeyThenTheIv : Prop :=
  let latches (s : State) (kg ig : Bool) (key iv : Word) (left : List Word) (count : Nat) : Prop :=
    ∃ t, exec (.init kg ig) s = .next t
      ∧ t.err = 0 ∧ t.key = key ∧ t.subkey = keySchedule key ∧ t.iv = iv ∧ t.aiv = iv ∧ t.chain = iv
      ∧ t.entropy = left ∧ t.drawCount = count
  (∀ (s : State) (ig : Bool), s.mode = 0#2 ∨ (s.mode = 1#2 ∧ ig = false) →
      (∀ d rest, s.entropy = d :: rest → latches s true ig d s.iv rest s.drawCount)
      ∧ (s.entropy = [] → latches s true ig (Config.entropy s.drawCount) s.iv [] (s.drawCount + 1)))
  ∧ (∀ s : State, s.mode = 1#2 →
      (∀ d rest, s.entropy = d :: rest → latches s false true s.key d rest s.drawCount)
      ∧ (s.entropy = [] → latches s false true s.key (Config.entropy s.drawCount) [] (s.drawCount + 1)))
  ∧ (∀ s : State, s.mode = 1#2 →
      (∀ d e rest, s.entropy = d :: e :: rest → latches s true true d e rest s.drawCount)
      ∧ (∀ d, s.entropy = [d] → latches s true true d (Config.entropy s.drawCount) [] (s.drawCount + 1))
      ∧ (s.entropy = [] →
          latches s true true (Config.entropy s.drawCount) (Config.entropy (s.drawCount + 1)) [] (s.drawCount + 2)))
  ∧ ∀ (s : State) (ig : Bool), s.mode = 0#2 ∨ (s.mode = 1#2 ∧ ig = false) →
      latches s false ig s.key s.iv s.entropy s.drawCount

/-- ENC (44_chaining.md): the block in DIN, under ECB and under CBC. -/
def Obligations.EncEncryptsDin : Prop :=
  ∀ s : State, s.ksv = true →
    (s.amode = false → exec .enc s = .next { s with
      dout := desE s.subkey s.din, err := 0, lastop := 0x10#8 })
    ∧ (s.amode = true → exec .enc s = .next { s with
      dout := desE s.subkey (s.din ^^^ s.chain), chain := desE s.subkey (s.din ^^^ s.chain)
      err := 0, lastop := 0x10#8 })

/-- DEC (44_chaining.md): the block in DIN, under ECB and under CBC; the new CHAIN is the input ciphertext. -/
def Obligations.DecDecryptsDin : Prop :=
  ∀ s : State, s.ksv = true →
    (s.amode = false → exec .dec s = .next { s with
      dout := desD s.subkey s.din, err := 0, lastop := 0x11#8 })
    ∧ (s.amode = true → exec .dec s = .next { s with
      dout := desD s.subkey s.din ^^^ s.chain, chain := s.din, err := 0, lastop := 0x11#8 })

/-- ENCMSG (44_chaining.md): the message's blocks by the mode laws, CHAIN the final chain under CBC, every byte from LEN
on unchanged, and nothing else written. -/
def Obligations.EncmsgEncryptsTheMessage : Prop :=
  ∀ s : State, s.ksv = true → s.len.toNat % 8 = 0 → s.len.toNat ≤ s.nBuf →
    ∃ t, exec .encmsg s = .next t
      ∧ messageBlocks t (s.len.toNat / 8) =
          (if s.amode then cbcE (desE s.subkey) s.aiv (messageBlocks s (s.len.toNat / 8))
            else ecb (desE s.subkey) (messageBlocks s (s.len.toNat / 8)))
      ∧ t.chain = (if s.amode then finalChain s.aiv (messageBlocks t (s.len.toNat / 8)) else s.chain)
      ∧ (∀ a, s.len.toNat ≤ a → dbufByte t a = dbufByte s a)
      ∧ t = { s with chain := t.chain, dbuf := t.dbuf, err := 0, lastop := 0x12#8 }

/-- DECMSG (44_chaining.md): as ENCMSG; the final chain is the last ciphertext block as it was read. -/
def Obligations.DecmsgDecryptsTheMessage : Prop :=
  ∀ s : State, s.ksv = true → s.len.toNat % 8 = 0 → s.len.toNat ≤ s.nBuf →
    ∃ t, exec .decmsg s = .next t
      ∧ messageBlocks t (s.len.toNat / 8) =
          (if s.amode then cbcD (desD s.subkey) s.aiv (messageBlocks s (s.len.toNat / 8))
            else ecb (desD s.subkey) (messageBlocks s (s.len.toNat / 8)))
      ∧ t.chain = (if s.amode then finalChain s.aiv (messageBlocks s (s.len.toNat / 8)) else s.chain)
      ∧ (∀ a, s.len.toNat ≤ a → dbufByte t a = dbufByte s a)
      ∧ t = { s with chain := t.chain, dbuf := t.dbuf, err := 0, lastop := 0x13#8 }

/-- PERM (40_permutation.md): each bit of TOUT is the bit of TIN its table's entry names, MSB first, and the bits above
the table's width are 0. A SEL above 5 is illegal. -/
def Obligations.PermMovesTheBitsOfTin : Prop :=
  let moves {w n : Nat} (sel : Byte) (t : PermTable w n) (s : State) : Prop :=
    ∃ v : Word, exec (.perm sel) s = .next { s with tout := v, err := 0, lastop := 0x20#8 }
      ∧ (∀ k : Fin n, v.getLsbD (n - 1 - k.val) = s.tin.getLsbD (w - t.entries[k]))
      ∧ (∀ b, n ≤ b → v.getLsbD b = false)
  ∀ s : State, moves 0 tableIP s ∧ moves 1 tableIPInv s ∧ moves 2 tableE s ∧ moves 3 tableP s
    ∧ moves 4 tablePC1 s ∧ moves 5 tablePC2 s
    ∧ ∀ sel : Byte, 5 < sel.toNat → exec (.perm sel) s = .next { s with err := 1, lastop := 0x20#8 }

/-- SBOX (41_sbox.md): TOUT is the entry of table `j` at row `x[5] ‖ x[0]`, column `x[4:1]` of the chunk TIN[5:0]. A SEL
above 7 is illegal. -/
def Obligations.SboxLooksUpItsEntry : Prop :=
  ∀ (s : State) (sel : Byte),
    (∀ j : Fin 8, sel.toNat = j.val → ∃ v : Word, exec (.sbox sel) s = .next { s with
        tout := v, err := 0, lastop := 0x21#8 }
      ∧ v.toNat = ((sboxTable j).toList.getD (16 * (2 * (s.tin.toNat / 32 % 2) + s.tin.toNat % 2)
          + s.tin.toNat / 2 % 16) 0).toNat)
    ∧ (7 < sel.toNat → exec (.sbox sel) s = .next { s with err := 1, lastop := 0x21#8 })

/-- FFUNC (43_feistel.md): `f(TIN[31:0], TAUX[47:0])`: expand by E, exclusive-or, the S-boxes, P. -/
def Obligations.FfuncEvaluatesF : Prop :=
  ∀ s : State, exec .ffunc s = .next { s with
    tout := (permute tableP (substitute (permute tableE (s.tin.extractLsb' 0 32)
      ^^^ s.taux.extractLsb' 0 48))).setWidth 64
    err := 0, lastop := 0x22#8 }

/-- ROUND (43_feistel.md): `R ‖ (L ^ f(R, K))`; the halves exchanged before and after, it undoes itself. -/
def Obligations.RoundAppliesOneFeistelRound : Prop :=
  (∀ s : State, ∃ v : Word, exec .round s = .next { s with tout := v, err := 0, lastop := 0x23#8 }
    ∧ v.extractLsb' 32 32 = s.tin.extractLsb' 0 32
    ∧ v.extractLsb' 0 32 = s.tin.extractLsb' 32 32
        ^^^ feistelF (s.tin.extractLsb' 0 32) (s.taux.extractLsb' 0 48)) ∧
  ∀ (lr : Word) (k : Subkey), swapHalves (feistelRound (swapHalves (feistelRound lr k)) k) = lr

/-- KSUB (42_key_schedule.md): subkey SEL of the key in TIN, in the low 48 bits of TOUT. A SEL outside 1 to 16 is
illegal. -/
def Obligations.KsubGivesTheSubkey : Prop :=
  ∀ (s : State) (sel : Byte),
    (∀ i : Fin 16, sel.toNat = i.val + 1 → exec (.ksub sel) s = .next { s with
      tout := ((keySchedule s.tin)[i]).setWidth 64, err := 0, lastop := 0x24#8 })
    ∧ (sel.toNat = 0 ∨ 16 < sel.toNat → exec (.ksub sel) s = .next { s with err := 1, lastop := 0x24#8 })

/-- CRYPT (43_feistel.md): one block by the instance's schedule, CHAIN and the mode aside; CRYPT.D of CRYPT.E's result
gives the block back. -/
def Obligations.CryptTransformsTin : Prop :=
  ∀ s : State, s.ksv = true →
    exec (.crypt false) s = .next { s with tout := desE s.subkey s.tin, err := 0, lastop := 0x25#8 }
    ∧ exec (.crypt true) s = .next { s with tout := desD s.subkey s.tin, err := 0, lastop := 0x25#8 }
    ∧ ∀ t u : State, exec (.crypt false) s = .next t → exec (.crypt true) { t with tin := t.tout } = .next u →
        u.tout = s.tin

/-! ## Messages and sequences of blocks -/

/-- The round trip (44_chaining.md, laws): what ENCMSG made of a message, DECMSG turns back, in the same instance or in
any other with the same schedule, mode and IV that holds the ciphertext. -/
def Obligations.DecmsgUndoesEncmsg : Prop :=
  ∀ s t r : State, s.ksv = true → s.len.toNat % 8 = 0 → s.len.toNat ≤ s.nBuf → exec .encmsg s = .next t →
    r.ksv = true → r.subkey = s.subkey → r.amode = s.amode → r.aiv = s.aiv → r.len = s.len →
    r.len.toNat ≤ r.nBuf → (∀ a, a < s.len.toNat → dbufByte r a = dbufByte t a) →
      ∃ u, exec .decmsg r = .next u ∧ u.err = 0 ∧ ∀ a, a < s.len.toNat → dbufByte u a = dbufByte s a

/-- Block commands and the mode laws (44_chaining.md, block commands): a host that runs ENC, or DEC, on one block after
another under a CBC instance reads the blocks of CBC_E, or CBC_D, seeded with CHAIN, and leaves the final chain. -/
def Obligations.BlockCommandsFollowTheCbcLaw : Prop :=
  ∀ (s : State) (blocks : List Word), s.fault = false → s.ksv = true → s.amode = true →
    (s.pending = blockTransactions .enc blocks →
      ∃ t, runReplies (3 * blocks.length) s = some (cbcE (desE s.subkey) s.chain blocks, t)
        ∧ t.chain = finalChain s.chain (cbcE (desE s.subkey) s.chain blocks))
    ∧ (s.pending = blockTransactions .dec blocks →
      ∃ t, runReplies (3 * blocks.length) s = some (cbcD (desD s.subkey) s.chain blocks, t)
        ∧ t.chain = finalChain s.chain blocks)

/-- 44_chaining.md R159: under CBC decryption a changed ciphertext block `i` changes decrypted block `i`, changes block
`i + 1` in exactly the changed bits, and changes no other. -/
def Obligations.CbcErrorReachesTwoBlocks : Prop :=
  ∀ (ks : Vector Subkey 16) (iv x : Word) (ct : List Word) (i : Nat) (hi : i < ct.length), x ≠ ct[i] →
    let p := cbcD (desD ks) iv ct
    let q := cbcD (desD ks) iv (ct.set i x)
    q.length = p.length
      ∧ (∀ j, j ≠ i → j ≠ i + 1 → q.getD j 0 = p.getD j 0)
      ∧ q.getD i 0 ≠ p.getD i 0
      ∧ (i + 1 < ct.length → q.getD (i + 1) 0 ^^^ p.getD (i + 1) 0 = x ^^^ ct[i])

/-! ## Frames: what each command leaves as it was, when it completes and when it raises -/

/-- NOP, RSTCHAIN and INIT (30_encoding.md, operands); `entropy` and `drawCount` are the model's (log entry 5). -/
def Obligations.ControlCommandsFrame : Prop :=
  ∀ s t : State,
    (exec .nop s = .next t → t = { s with err := t.err, lastop := t.lastop })
    ∧ (exec .rstchain s = .next t → t = { s with chain := t.chain, err := t.err, lastop := t.lastop })
    ∧ (∀ kg ig, exec (.init kg ig) s = .next t →
        t = { s with
          key := t.key, iv := t.iv, subkey := t.subkey, ksv := t.ksv, amode := t.amode, aiv := t.aiv
          chain := t.chain, err := t.err, lastop := t.lastop, entropy := t.entropy, drawCount := t.drawCount }
        ∧ (kg = false → t.key = s.key) ∧ (ig = false ∨ s.mode ≠ 1#2 → t.iv = s.iv))
    ∧ (∀ i, i = .nop ∨ i = .rstchain ∨ (∃ kg ig, i = .init kg ig) → exec i s = .next t →
        ∀ a, dbufByte t a = dbufByte s a)

/-- ENC and DEC (30_encoding.md, operands; 10_state.md, CHAIN). -/
def Obligations.BlockCommandsFrame : Prop :=
  ∀ (s t : State) (i : Instr), i ∈ [.enc, .dec] → exec i s = .next t →
    t = { s with dout := t.dout, chain := t.chain, err := t.err, lastop := t.lastop }
    ∧ (s.amode = false → t.chain = s.chain)
    ∧ ∀ a, dbufByte t a = dbufByte s a

/-- ENCMSG and DECMSG store to DBUF[0..LEN-1] and nowhere else; the bytes stored to are the LEN bytes from offset 0
(44_chaining.md, message commands; 30_encoding.md, operands). -/
def Obligations.MessageCommandsFrame : Prop :=
  ∀ (s t : State) (i : Instr), i ∈ [.encmsg, .decmsg] → exec i s = .next t →
    t = { s with chain := t.chain, dbuf := t.dbuf, err := t.err, lastop := t.lastop }
    ∧ (s.amode = false → t.chain = s.chain)
    ∧ (∀ a, s.len.toNat ≤ a → dbufByte t a = dbufByte s a)
    ∧ (t.err ≠ 0 → ∀ a, dbufByte t a = dbufByte s a)

/-- PERM, SBOX, FFUNC, ROUND, KSUB and CRYPT write TOUT alone beside the status (30_encoding.md, operands; 10_state.md,
register map). -/
def Obligations.TestCommandsFrame : Prop :=
  ∀ (s t : State) (i : Instr),
    (i = .ffunc ∨ i = .round ∨ (∃ sel, i = .perm sel ∨ i = .sbox sel ∨ i = .ksub sel) ∨ ∃ dir, i = .crypt dir) →
    exec i s = .next t →
      t = { s with tout := t.tout, err := t.err, lastop := t.lastop } ∧ ∀ a, dbufByte t a = dbufByte s a

end
end

