-- ==== Sys2Proof/Laws/Permute.lean ====
section
/-! SUPPORT. Laws/Permute.lean: which source bit each bit of a permutation is, and that the tables are sound. -/

namespace Sys2Proof.Machine

theorem gatherBits_append_one {w : Nat} (src : BitVec w) (ps : List Nat) (p : Nat) :
    gatherBits src (ps ++ [p]) = 2 * gatherBits src ps + (posBit src p).toNat := by
  simp [gatherBits]

theorem gatherBits_testBit {w : Nat} (src : BitVec w) (ps : List Nat) (i : Nat) (hi : i < ps.length) :
    (gatherBits src ps).testBit i = posBit src (ps.getD (ps.length - 1 - i) 0) := by
  induction ps using List.reverseRecOn generalizing i with
  | nil => simp at hi
  | append_singleton ps p ih =>
    rw [gatherBits_append_one]
    simp only [List.length_append, List.length_singleton] at hi ⊢
    have hb : (posBit src p).toNat < 2 := Bool.toNat_lt _
    cases i with
    | zero =>
      rw [Nat.testBit_zero, Nat.add_sub_cancel, Nat.sub_zero,
        List.getD_append_right _ _ _ _ (Nat.le_refl _)]
      cases h : posBit src p <;> simp [h]
    | succ i =>
      rw [Nat.testBit_succ, show (2 * gatherBits src ps + (posBit src p).toNat) / 2 = gatherBits src ps by omega,
        ih i (by omega), List.getD_append _ _ _ _ (by omega)]
      congr 2
      omega

/-- `permute`, bit by bit: destination position `k + 1` is the source position the table's entry `k` names
(40_permutation.md R100). -/
theorem permute_getLsbD {w n : Nat} (t : PermTable w n) (src : BitVec w) (i : Nat) (hi : i < n) :
    (permute t src).getLsbD i = posBit src (t.entries.toList.getD (n - 1 - i) 0) := by
  have hlen : t.entries.toList.length = n := Vector.length_toList
  rw [permute, BitVec.getLsbD_ofNat, gatherBits_testBit _ _ _ (by omega), hlen]
  simp [hi]

theorem permute_posBit {w n : Nat} (t : PermTable w n) (src : BitVec w) (k : Nat) (hk : k < n) :
    posBit (permute t src) (k + 1) = posBit src (t.entries.toList.getD k 0) := by
  rw [posBit, permute_getLsbD t src _ (by omega), show n - 1 - (n - (k + 1)) = k by omega]

/-! ## The tables are sound (40_permutation.md R101) -/

@[simp] theorem tableIP_inRange : tableIP.inRange = true := by decide +kernel
@[simp] theorem tableIPInv_inRange : tableIPInv.inRange = true := by decide +kernel
@[simp] theorem tableE_inRange : tableE.inRange = true := by decide +kernel
@[simp] theorem tableP_inRange : tableP.inRange = true := by decide +kernel
@[simp] theorem tablePC1_inRange : tablePC1.inRange = true := by decide +kernel
@[simp] theorem tablePC2_inRange : tablePC2.inRange = true := by decide +kernel

@[simp] theorem scheduleTables_sound : scheduleTablesInRange = true := by simp [scheduleTablesInRange]
@[simp] theorem fTables_sound : fTablesInRange = true := by simp [fTablesInRange]
@[simp] theorem transformTables_sound : transformTablesInRange = true := by simp [transformTablesInRange]

@[simp] theorem requireTables_true : requireTables true = .ok () := rfl

end Sys2Proof.Machine
end

