-- ==== Sys2Proof/Laws/State.lean ====
section
/-! SUPPORT. Laws/State.lean: one lemma per field of State per update, so that no proof unfolds a record update. -/

namespace Sys2Proof.Machine

@[simp] theorem complete_cmd (op : Byte) (s : State) : (complete op s).cmd = s.cmd := rfl
@[simp] theorem complete_err (op : Byte) (s : State) : (complete op s).err = errOk := rfl
@[simp] theorem complete_ksv (op : Byte) (s : State) : (complete op s).ksv = s.ksv := rfl
@[simp] theorem complete_amode (op : Byte) (s : State) : (complete op s).amode = s.amode := rfl
@[simp] theorem complete_fault (op : Byte) (s : State) : (complete op s).fault = s.fault := rfl
@[simp] theorem complete_lastop (op : Byte) (s : State) : (complete op s).lastop = op := rfl
@[simp] theorem complete_key (op : Byte) (s : State) : (complete op s).key = s.key := rfl
@[simp] theorem complete_iv (op : Byte) (s : State) : (complete op s).iv = s.iv := rfl
@[simp] theorem complete_mode (op : Byte) (s : State) : (complete op s).mode = s.mode := rfl
@[simp] theorem complete_chain (op : Byte) (s : State) : (complete op s).chain = s.chain := rfl
@[simp] theorem complete_din (op : Byte) (s : State) : (complete op s).din = s.din := rfl
@[simp] theorem complete_dout (op : Byte) (s : State) : (complete op s).dout = s.dout := rfl
@[simp] theorem complete_len (op : Byte) (s : State) : (complete op s).len = s.len := rfl
@[simp] theorem complete_tin (op : Byte) (s : State) : (complete op s).tin = s.tin := rfl
@[simp] theorem complete_taux (op : Byte) (s : State) : (complete op s).taux = s.taux := rfl
@[simp] theorem complete_tout (op : Byte) (s : State) : (complete op s).tout = s.tout := rfl
@[simp] theorem complete_aiv (op : Byte) (s : State) : (complete op s).aiv = s.aiv := rfl
@[simp] theorem complete_subkey (op : Byte) (s : State) : (complete op s).subkey = s.subkey := rfl
@[simp] theorem complete_dbuf (op : Byte) (s : State) : (complete op s).dbuf = s.dbuf := rfl
@[simp] theorem complete_dbufEpoch (op : Byte) (s : State) : (complete op s).dbufEpoch = s.dbufEpoch := rfl
@[simp] theorem complete_nBuf (op : Byte) (s : State) : (complete op s).nBuf = s.nBuf := rfl
@[simp] theorem complete_entropy (op : Byte) (s : State) : (complete op s).entropy = s.entropy := rfl
@[simp] theorem complete_drawCount (op : Byte) (s : State) : (complete op s).drawCount = s.drawCount := rfl
@[simp] theorem complete_pending (op : Byte) (s : State) : (complete op s).pending = s.pending := rfl
@[simp] theorem complete_reply (op : Byte) (s : State) : (complete op s).reply = s.reply := rfl

@[simp] theorem raise_err_cmd (op : Byte) (c : ErrCode) (s : State) : (raise op (.err c) s).cmd = s.cmd := rfl
@[simp] theorem raise_err_err (op : Byte) (c : ErrCode) (s : State) : (raise op (.err c) s).err = c.code := rfl
@[simp] theorem raise_err_ksv (op : Byte) (c : ErrCode) (s : State) : (raise op (.err c) s).ksv = s.ksv := rfl
@[simp] theorem raise_err_amode (op : Byte) (c : ErrCode) (s : State) : (raise op (.err c) s).amode = s.amode := rfl
@[simp] theorem raise_err_fault (op : Byte) (c : ErrCode) (s : State) : (raise op (.err c) s).fault = s.fault := rfl
@[simp] theorem raise_err_lastop (op : Byte) (c : ErrCode) (s : State) : (raise op (.err c) s).lastop = op := rfl
@[simp] theorem raise_err_key (op : Byte) (c : ErrCode) (s : State) : (raise op (.err c) s).key = s.key := rfl
@[simp] theorem raise_err_iv (op : Byte) (c : ErrCode) (s : State) : (raise op (.err c) s).iv = s.iv := rfl
@[simp] theorem raise_err_mode (op : Byte) (c : ErrCode) (s : State) : (raise op (.err c) s).mode = s.mode := rfl
@[simp] theorem raise_err_chain (op : Byte) (c : ErrCode) (s : State) : (raise op (.err c) s).chain = s.chain := rfl
@[simp] theorem raise_err_din (op : Byte) (c : ErrCode) (s : State) : (raise op (.err c) s).din = s.din := rfl
@[simp] theorem raise_err_dout (op : Byte) (c : ErrCode) (s : State) : (raise op (.err c) s).dout = s.dout := rfl
@[simp] theorem raise_err_len (op : Byte) (c : ErrCode) (s : State) : (raise op (.err c) s).len = s.len := rfl
@[simp] theorem raise_err_tin (op : Byte) (c : ErrCode) (s : State) : (raise op (.err c) s).tin = s.tin := rfl
@[simp] theorem raise_err_taux (op : Byte) (c : ErrCode) (s : State) : (raise op (.err c) s).taux = s.taux := rfl
@[simp] theorem raise_err_tout (op : Byte) (c : ErrCode) (s : State) : (raise op (.err c) s).tout = s.tout := rfl
@[simp] theorem raise_err_aiv (op : Byte) (c : ErrCode) (s : State) : (raise op (.err c) s).aiv = s.aiv := rfl
@[simp] theorem raise_err_subkey (op : Byte) (c : ErrCode) (s : State) : (raise op (.err c) s).subkey = s.subkey := rfl
@[simp] theorem raise_err_dbuf (op : Byte) (c : ErrCode) (s : State) : (raise op (.err c) s).dbuf = s.dbuf := rfl
@[simp] theorem raise_err_dbufEpoch (op : Byte) (c : ErrCode) (s : State) : (raise op (.err c) s).dbufEpoch = s.dbufEpoch := rfl
@[simp] theorem raise_err_nBuf (op : Byte) (c : ErrCode) (s : State) : (raise op (.err c) s).nBuf = s.nBuf := rfl
@[simp] theorem raise_err_entropy (op : Byte) (c : ErrCode) (s : State) : (raise op (.err c) s).entropy = s.entropy := rfl
@[simp] theorem raise_err_drawCount (op : Byte) (c : ErrCode) (s : State) : (raise op (.err c) s).drawCount = s.drawCount := rfl
@[simp] theorem raise_err_pending (op : Byte) (c : ErrCode) (s : State) : (raise op (.err c) s).pending = s.pending := rfl
@[simp] theorem raise_err_reply (op : Byte) (c : ErrCode) (s : State) : (raise op (.err c) s).reply = s.reply := rfl

@[simp] theorem raise_tableFault_cmd (op : Byte) (s : State) : (raise op .tableFault s).cmd = s.cmd := rfl
@[simp] theorem raise_tableFault_err (op : Byte) (s : State) : (raise op .tableFault s).err = s.err := rfl
@[simp] theorem raise_tableFault_ksv (op : Byte) (s : State) : (raise op .tableFault s).ksv = s.ksv := rfl
@[simp] theorem raise_tableFault_amode (op : Byte) (s : State) : (raise op .tableFault s).amode = s.amode := rfl
@[simp] theorem raise_tableFault_fault (op : Byte) (s : State) : (raise op .tableFault s).fault = true := rfl
@[simp] theorem raise_tableFault_lastop (op : Byte) (s : State) : (raise op .tableFault s).lastop = op := rfl
@[simp] theorem raise_tableFault_key (op : Byte) (s : State) : (raise op .tableFault s).key = s.key := rfl
@[simp] theorem raise_tableFault_iv (op : Byte) (s : State) : (raise op .tableFault s).iv = s.iv := rfl
@[simp] theorem raise_tableFault_mode (op : Byte) (s : State) : (raise op .tableFault s).mode = s.mode := rfl
@[simp] theorem raise_tableFault_chain (op : Byte) (s : State) : (raise op .tableFault s).chain = s.chain := rfl
@[simp] theorem raise_tableFault_din (op : Byte) (s : State) : (raise op .tableFault s).din = s.din := rfl
@[simp] theorem raise_tableFault_dout (op : Byte) (s : State) : (raise op .tableFault s).dout = s.dout := rfl
@[simp] theorem raise_tableFault_len (op : Byte) (s : State) : (raise op .tableFault s).len = s.len := rfl
@[simp] theorem raise_tableFault_tin (op : Byte) (s : State) : (raise op .tableFault s).tin = s.tin := rfl
@[simp] theorem raise_tableFault_taux (op : Byte) (s : State) : (raise op .tableFault s).taux = s.taux := rfl
@[simp] theorem raise_tableFault_tout (op : Byte) (s : State) : (raise op .tableFault s).tout = s.tout := rfl
@[simp] theorem raise_tableFault_aiv (op : Byte) (s : State) : (raise op .tableFault s).aiv = s.aiv := rfl
@[simp] theorem raise_tableFault_subkey (op : Byte) (s : State) : (raise op .tableFault s).subkey = s.subkey := rfl
@[simp] theorem raise_tableFault_dbuf (op : Byte) (s : State) : (raise op .tableFault s).dbuf = s.dbuf := rfl
@[simp] theorem raise_tableFault_dbufEpoch (op : Byte) (s : State) : (raise op .tableFault s).dbufEpoch = s.dbufEpoch := rfl
@[simp] theorem raise_tableFault_nBuf (op : Byte) (s : State) : (raise op .tableFault s).nBuf = s.nBuf := rfl
@[simp] theorem raise_tableFault_entropy (op : Byte) (s : State) : (raise op .tableFault s).entropy = s.entropy := rfl
@[simp] theorem raise_tableFault_drawCount (op : Byte) (s : State) : (raise op .tableFault s).drawCount = s.drawCount := rfl
@[simp] theorem raise_tableFault_pending (op : Byte) (s : State) : (raise op .tableFault s).pending = s.pending := rfl
@[simp] theorem raise_tableFault_reply (op : Byte) (s : State) : (raise op .tableFault s).reply = s.reply := rfl

@[simp] theorem latchInstance_cmd (k v : Word) (s : State) : (latchInstance k v s).cmd = s.cmd := rfl
@[simp] theorem latchInstance_err (k v : Word) (s : State) : (latchInstance k v s).err = s.err := rfl
@[simp] theorem latchInstance_ksv (k v : Word) (s : State) : (latchInstance k v s).ksv = true := rfl
@[simp] theorem latchInstance_amode (k v : Word) (s : State) : (latchInstance k v s).amode = s.mode.getLsbD 0 := rfl
@[simp] theorem latchInstance_fault (k v : Word) (s : State) : (latchInstance k v s).fault = s.fault := rfl
@[simp] theorem latchInstance_lastop (k v : Word) (s : State) : (latchInstance k v s).lastop = s.lastop := rfl
@[simp] theorem latchInstance_key (k v : Word) (s : State) : (latchInstance k v s).key = k := rfl
@[simp] theorem latchInstance_iv (k v : Word) (s : State) : (latchInstance k v s).iv = v := rfl
@[simp] theorem latchInstance_mode (k v : Word) (s : State) : (latchInstance k v s).mode = s.mode := rfl
@[simp] theorem latchInstance_chain (k v : Word) (s : State) : (latchInstance k v s).chain = v := rfl
@[simp] theorem latchInstance_din (k v : Word) (s : State) : (latchInstance k v s).din = s.din := rfl
@[simp] theorem latchInstance_dout (k v : Word) (s : State) : (latchInstance k v s).dout = s.dout := rfl
@[simp] theorem latchInstance_len (k v : Word) (s : State) : (latchInstance k v s).len = s.len := rfl
@[simp] theorem latchInstance_tin (k v : Word) (s : State) : (latchInstance k v s).tin = s.tin := rfl
@[simp] theorem latchInstance_taux (k v : Word) (s : State) : (latchInstance k v s).taux = s.taux := rfl
@[simp] theorem latchInstance_tout (k v : Word) (s : State) : (latchInstance k v s).tout = s.tout := rfl
@[simp] theorem latchInstance_aiv (k v : Word) (s : State) : (latchInstance k v s).aiv = v := rfl
@[simp] theorem latchInstance_subkey (k v : Word) (s : State) : (latchInstance k v s).subkey = keySchedule k := rfl
@[simp] theorem latchInstance_dbuf (k v : Word) (s : State) : (latchInstance k v s).dbuf = s.dbuf := rfl
@[simp] theorem latchInstance_dbufEpoch (k v : Word) (s : State) : (latchInstance k v s).dbufEpoch = s.dbufEpoch := rfl
@[simp] theorem latchInstance_nBuf (k v : Word) (s : State) : (latchInstance k v s).nBuf = s.nBuf := rfl
@[simp] theorem latchInstance_entropy (k v : Word) (s : State) : (latchInstance k v s).entropy = s.entropy := rfl
@[simp] theorem latchInstance_drawCount (k v : Word) (s : State) : (latchInstance k v s).drawCount = s.drawCount := rfl
@[simp] theorem latchInstance_pending (k v : Word) (s : State) : (latchInstance k v s).pending = s.pending := rfl
@[simp] theorem latchInstance_reply (k v : Word) (s : State) : (latchInstance k v s).reply = s.reply := rfl

@[simp] theorem hostReset_cmd (s : State) : (hostReset s).cmd = State.reset.cmd := rfl
@[simp] theorem hostReset_err (s : State) : (hostReset s).err = State.reset.err := rfl
@[simp] theorem hostReset_ksv (s : State) : (hostReset s).ksv = State.reset.ksv := rfl
@[simp] theorem hostReset_amode (s : State) : (hostReset s).amode = State.reset.amode := rfl
@[simp] theorem hostReset_fault (s : State) : (hostReset s).fault = State.reset.fault := rfl
@[simp] theorem hostReset_lastop (s : State) : (hostReset s).lastop = State.reset.lastop := rfl
@[simp] theorem hostReset_key (s : State) : (hostReset s).key = State.reset.key := rfl
@[simp] theorem hostReset_iv (s : State) : (hostReset s).iv = State.reset.iv := rfl
@[simp] theorem hostReset_mode (s : State) : (hostReset s).mode = State.reset.mode := rfl
@[simp] theorem hostReset_chain (s : State) : (hostReset s).chain = State.reset.chain := rfl
@[simp] theorem hostReset_din (s : State) : (hostReset s).din = State.reset.din := rfl
@[simp] theorem hostReset_dout (s : State) : (hostReset s).dout = State.reset.dout := rfl
@[simp] theorem hostReset_len (s : State) : (hostReset s).len = State.reset.len := rfl
@[simp] theorem hostReset_tin (s : State) : (hostReset s).tin = State.reset.tin := rfl
@[simp] theorem hostReset_taux (s : State) : (hostReset s).taux = State.reset.taux := rfl
@[simp] theorem hostReset_tout (s : State) : (hostReset s).tout = State.reset.tout := rfl
@[simp] theorem hostReset_aiv (s : State) : (hostReset s).aiv = State.reset.aiv := rfl
@[simp] theorem hostReset_subkey (s : State) : (hostReset s).subkey = State.reset.subkey := rfl
@[simp] theorem hostReset_dbuf (s : State) : (hostReset s).dbuf = State.reset.dbuf := rfl
@[simp] theorem hostReset_dbufEpoch (s : State) : (hostReset s).dbufEpoch = s.dbufEpoch + 1 := rfl
@[simp] theorem hostReset_nBuf (s : State) : (hostReset s).nBuf = s.nBuf := rfl
@[simp] theorem hostReset_entropy (s : State) : (hostReset s).entropy = s.entropy := rfl
@[simp] theorem hostReset_drawCount (s : State) : (hostReset s).drawCount = s.drawCount := rfl
@[simp] theorem hostReset_pending (s : State) : (hostReset s).pending = s.pending := rfl
@[simp] theorem hostReset_reply (s : State) : (hostReset s).reply = State.reset.reply := rfl

@[simp] theorem idle_cmd (s : State) : (idle s).cmd = s.cmd := rfl
@[simp] theorem idle_err (s : State) : (idle s).err = s.err := rfl
@[simp] theorem idle_ksv (s : State) : (idle s).ksv = s.ksv := rfl
@[simp] theorem idle_amode (s : State) : (idle s).amode = s.amode := rfl
@[simp] theorem idle_fault (s : State) : (idle s).fault = s.fault := rfl
@[simp] theorem idle_lastop (s : State) : (idle s).lastop = s.lastop := rfl
@[simp] theorem idle_key (s : State) : (idle s).key = s.key := rfl
@[simp] theorem idle_iv (s : State) : (idle s).iv = s.iv := rfl
@[simp] theorem idle_mode (s : State) : (idle s).mode = s.mode := rfl
@[simp] theorem idle_chain (s : State) : (idle s).chain = s.chain := rfl
@[simp] theorem idle_din (s : State) : (idle s).din = s.din := rfl
@[simp] theorem idle_dout (s : State) : (idle s).dout = s.dout := rfl
@[simp] theorem idle_len (s : State) : (idle s).len = s.len := rfl
@[simp] theorem idle_tin (s : State) : (idle s).tin = s.tin := rfl
@[simp] theorem idle_taux (s : State) : (idle s).taux = s.taux := rfl
@[simp] theorem idle_tout (s : State) : (idle s).tout = s.tout := rfl
@[simp] theorem idle_aiv (s : State) : (idle s).aiv = s.aiv := rfl
@[simp] theorem idle_subkey (s : State) : (idle s).subkey = s.subkey := rfl
@[simp] theorem idle_dbuf (s : State) : (idle s).dbuf = s.dbuf := rfl
@[simp] theorem idle_dbufEpoch (s : State) : (idle s).dbufEpoch = s.dbufEpoch := rfl
@[simp] theorem idle_nBuf (s : State) : (idle s).nBuf = s.nBuf := rfl
@[simp] theorem idle_entropy (s : State) : (idle s).entropy = s.entropy := rfl
@[simp] theorem idle_drawCount (s : State) : (idle s).drawCount = s.drawCount := rfl
@[simp] theorem idle_pending (s : State) : (idle s).pending = s.pending := rfl
@[simp] theorem idle_reply (s : State) : (idle s).reply = .nothing := rfl

/-- A draw changes nothing but what the environment still offers and the count of the draws. -/
theorem draw64_state (s : State) :
    (draw64 s).2 = { s with entropy := (draw64 s).2.entropy, drawCount := (draw64 s).2.drawCount } := by
  unfold draw64
  split <;> rfl

@[simp] theorem draw64_cmd (s : State) : (draw64 s).2.cmd = s.cmd := by rw [draw64_state]
@[simp] theorem draw64_err (s : State) : (draw64 s).2.err = s.err := by rw [draw64_state]
@[simp] theorem draw64_ksv (s : State) : (draw64 s).2.ksv = s.ksv := by rw [draw64_state]
@[simp] theorem draw64_amode (s : State) : (draw64 s).2.amode = s.amode := by rw [draw64_state]
@[simp] theorem draw64_fault (s : State) : (draw64 s).2.fault = s.fault := by rw [draw64_state]
@[simp] theorem draw64_lastop (s : State) : (draw64 s).2.lastop = s.lastop := by rw [draw64_state]
@[simp] theorem draw64_key (s : State) : (draw64 s).2.key = s.key := by rw [draw64_state]
@[simp] theorem draw64_iv (s : State) : (draw64 s).2.iv = s.iv := by rw [draw64_state]
@[simp] theorem draw64_mode (s : State) : (draw64 s).2.mode = s.mode := by rw [draw64_state]
@[simp] theorem draw64_chain (s : State) : (draw64 s).2.chain = s.chain := by rw [draw64_state]
@[simp] theorem draw64_din (s : State) : (draw64 s).2.din = s.din := by rw [draw64_state]
@[simp] theorem draw64_dout (s : State) : (draw64 s).2.dout = s.dout := by rw [draw64_state]
@[simp] theorem draw64_len (s : State) : (draw64 s).2.len = s.len := by rw [draw64_state]
@[simp] theorem draw64_tin (s : State) : (draw64 s).2.tin = s.tin := by rw [draw64_state]
@[simp] theorem draw64_taux (s : State) : (draw64 s).2.taux = s.taux := by rw [draw64_state]
@[simp] theorem draw64_tout (s : State) : (draw64 s).2.tout = s.tout := by rw [draw64_state]
@[simp] theorem draw64_aiv (s : State) : (draw64 s).2.aiv = s.aiv := by rw [draw64_state]
@[simp] theorem draw64_subkey (s : State) : (draw64 s).2.subkey = s.subkey := by rw [draw64_state]
@[simp] theorem draw64_dbuf (s : State) : (draw64 s).2.dbuf = s.dbuf := by rw [draw64_state]
@[simp] theorem draw64_dbufEpoch (s : State) : (draw64 s).2.dbufEpoch = s.dbufEpoch := by rw [draw64_state]
@[simp] theorem draw64_nBuf (s : State) : (draw64 s).2.nBuf = s.nBuf := by rw [draw64_state]
@[simp] theorem draw64_pending (s : State) : (draw64 s).2.pending = s.pending := by rw [draw64_state]
@[simp] theorem draw64_reply (s : State) : (draw64 s).2.reply = s.reply := by rw [draw64_state]

end Sys2Proof.Machine
end

