-- ==== Sys2Proof/Laws/Commands.lean ====
section
/-! SUPPORT. Laws/Commands.lean: what each command's body can do, said once, the checks of 60_exceptions.md R194 in
their order; the tables being sound, no table check is left. -/

namespace Sys2Proof.Machine

/-! ## Running a command -/

theorem runCommand_ok {op : Byte} {body : State → Except Raise State} {s t : State} (h : body s = .ok t) :
    runCommand op body s = .next (complete op t) := by
  simp [runCommand, h]

theorem runCommand_error {op : Byte} {body : State → Except Raise State} {s : State} {r : Raise}
    (h : body s = .error r) : runCommand op body s = .next (raise op r s) := by
  simp [runCommand, h]

/-- A command completes with its body's writes, or raises with none of them (00_scope.md R13, R15). -/
theorem runCommand_cases {op : Byte} {body : State → Except Raise State} {s t : State}
    (h : runCommand op body s = .next t) :
    (∃ u, body s = .ok u ∧ t = complete op u) ∨ (∃ r, body s = .error r ∧ t = raise op r s) := by
  unfold runCommand at h
  split at h
  · next u hu => exact .inl ⟨u, hu, (Host.Outcome.next.inj h).symm⟩
  · next r hr => exact .inr ⟨r, hr, (Host.Outcome.next.inj h).symm⟩

theorem runCommand_next (op : Byte) (body : State → Except Raise State) (s : State) :
    ∃ t, runCommand op body s = .next t := by
  unfold runCommand
  split
  · exact ⟨_, rfl⟩
  · exact ⟨_, rfl⟩

/-! ## The bodies -/

theorem permWith_eq {w n : Nat} (t : PermTable w n) (s : State) :
    permWith t s = if t.inRange then .ok { s with tout := (permute t (s.tin.setWidth w)).setWidth 64 }
      else .error .tableFault := by
  cases h : t.inRange <;> simp [permWith, requireTables, raiseWhen, h]

/-- PERM: a legal SEL names a table, any other is illegal. -/
theorem permBody_cases (sel : Byte) (s : State) :
    (permSelLegal sel = true ∧ ∃ v, permBody sel s = .ok { s with tout := v }) ∨
      (permSelLegal sel = false ∧ permBody sel s = .error (.err .illegalCmd)) := by
  unfold permBody permSelLegal
  split
  case h_7 h0 h1 h2 h3 h4 h5 =>
    refine .inr ⟨?_, rfl⟩
    have hs : ∀ n, n ≤ 5 → sel.toNat ≠ n := by
      intro n hn hs
      interval_cases n
      exacts [h0 hs, h1 hs, h2 hs, h3 hs, h4 hs, h5 hs]
    exact decide_eq_false fun hle => hs _ hle rfl
  all_goals
    next h => exact .inl ⟨by rw [h]; rfl, _, by rw [permWith_eq]; simp; rfl⟩

theorem sboxBody_cases (sel : Byte) (s : State) :
    (sboxSelLegal sel = true ∧ ∃ v, sboxBody sel s = .ok { s with tout := v }) ∨
      (sboxSelLegal sel = false ∧ sboxBody sel s = .error (.err .illegalCmd)) := by
  unfold sboxBody sboxSelLegal
  split
  · exact .inl ⟨by rw [decide_eq_true_eq]; omega, _, rfl⟩
  · exact .inr ⟨by rw [decide_eq_false_iff_not]; omega, rfl⟩

theorem ksubBody_eq (sel : Byte) (s : State) :
    ksubBody sel s = if ksubSelLegal sel
      then .ok { s with tout := ((keySchedule s.tin).toList.getD (sel.toNat - 1) 0).setWidth 64 }
      else .error (.err .illegalCmd) := by
  cases h : ksubSelLegal sel <;> simp [ksubBody, raiseWhen, h] <;> rfl

theorem ffuncBody_eq (s : State) :
    ffuncBody s = .ok { s with tout := (feistelF (tinHalf s) (tauxSubkey s)).setWidth 64 } := by
  simp [ffuncBody]

theorem roundBody_eq (s : State) : roundBody s = .ok { s with tout := feistelRound s.tin (tauxSubkey s) } := by
  simp [roundBody]

theorem cryptBody_eq (dir : Bool) (s : State) :
    cryptBody dir s = if s.ksv
      then .ok { s with tout := if dir then desD s.subkey s.tin else desE s.subkey s.tin }
      else .error (.err .notInitialised) := by
  cases h : s.ksv <;> simp [cryptBody, requireInstance, raiseWhen, h] <;> rfl

theorem blockBody_eq (block : State → Word → Word → Word × Word) (s : State) :
    blockBody block s = if s.ksv
      then .ok { s with dout := (block s s.chain s.din).1, chain := chainAfter s (block s s.chain s.din).2 }
      else .error (.err .notInitialised) := by
  cases h : s.ksv <;> simp [blockBody, requireInstance, raiseWhen, h] <;> rfl

/-- What ENCMSG and DECMSG leave when they complete. -/
theorem messageBody_eq (block : State → Word → Word → Word × Word) (s : State) :
    messageBody block s =
      if s.ksv = false then .error (.err .notInitialised)
      else if s.len.toNat % 8 ≠ 0 then .error (.err .invalidInputLength)
      else if s.nBuf < s.len.toNat then .error (.err .bufferOverrun)
      else .ok { s with
        chain := chainAfter s (messageLoop (block s) s.dbufEpoch (s.len.toNat / 8) 0 s.aiv s.dbuf).1
        dbuf := (messageLoop (block s) s.dbufEpoch (s.len.toNat / 8) 0 s.aiv s.dbuf).2 } := by
  have hb : ∀ (p : Prop) [Decidable p] (r : Raise), raiseWhen (decide p) r = if p then .error r else .ok () := by
    intro p _ r
    by_cases h : p <;> simp [raiseWhen, h]
  have hm : (s.len.toNat % 8 != 0) = decide (s.len.toNat % 8 ≠ 0) := by
    by_cases h : s.len.toNat % 8 = 0 <;> simp [h]
  have hk : (!s.ksv) = decide (s.ksv = false) := by cases s.ksv <;> rfl
  simp only [messageBody, requireInstance, checkLen, hk, hm, hb, transformTables_sound, Bool.or_true,
    requireTables_true]
  split
  · rfl
  · split
    · rfl
    · split <;> rfl

theorem initBody_eq (kg ig : Bool) (s : State) :
    initBody kg ig s = if modeUnsupported s.mode then .error (.err .unsupportedMode)
      else .ok (latchInstance (initKey kg s).1 (initIv ig (initKey kg s).2).1 (initIv ig (initKey kg s).2).2) := by
  cases h : modeUnsupported s.mode <;> simp [initBody, raiseWhen, h] <;> rfl

/-! ## No command stops -/

/-- Every command answers a next state: an error is a state as well (60_exceptions.md R196). -/
theorem exec_next (i : Instr) (s : State) : ∃ t, exec i s = .next t := by
  cases i <;>
    simp only [exec, execNop, execInit, execRstchain, execEnc, execDec, execEncmsg, execDecmsg, execPerm, execSbox,
      execFfunc, execRound, execKsub, execCrypt] <;>
    exact runCommand_next _ _ _

end Sys2Proof.Machine
end

