-- ==== Sys2Proof/Laws/PerInstr.lean ====
section
/-! SUPPORT. Laws/PerInstr.lean: facts about each command as syntax, one lemma per constructor. -/

namespace Sys2Proof.Laws.EncodeFields

/-- A command word, bit by bit (30_encoding.md R81). -/
theorem getLsbD_commandWord (op sel : Byte) (f0 f1 : Bool) (i : Nat) :
    (commandWord op sel f0 f1).getLsbD i =
      if i < 8 then op.getLsbD i else if i < 16 then sel.getLsbD (i - 8) else if i = 16 then f0
      else if i = 17 then f1 else false := by
  have h : (commandWord op sel f0 f1).getLsbD i =
      ((((0#46 ++ BitVec.ofBool f1 : BitVec (46 + 1)) ++ BitVec.ofBool f0 : BitVec (46 + 1 + 1)) ++ sel
        : BitVec (46 + 1 + 1 + 8)) ++ op : BitVec (46 + 1 + 1 + 8 + 8)).getLsbD i := rfl
  rw [h]
  simp only [BitVec.getLsbD_append, BitVec.getLsbD_ofBool, BitVec.getLsbD_zero]
  split_ifs <;> first | rfl | omega | simp_all

/-- The fields of a command word are the ones it was built from (30_encoding.md R81). -/
theorem fields_commandWord (op sel : Byte) (f0 f1 : Bool) :
    opField (commandWord op sel f0 f1) = op ∧ selField (commandWord op sel f0 f1) = sel
      ∧ f0Field (commandWord op sel f0 f1) = f0 ∧ f1Field (commandWord op sel f0 f1) = f1
      ∧ rsvField (commandWord op sel f0 f1) = 0 := by
  refine ⟨BitVec.eq_of_getLsbD_eq fun i hi => ?_, BitVec.eq_of_getLsbD_eq fun i hi => ?_, ?_, ?_,
    BitVec.eq_of_getLsbD_eq fun i hi => ?_⟩
  · simp [opField, getLsbD_commandWord, hi]
  · simp [selField, getLsbD_commandWord, hi, show ¬ 8 + i < 8 by omega,
      show 8 + i < 16 by omega]
  · exact getLsbD_commandWord op sel f0 f1 16
  · exact getLsbD_commandWord op sel f0 f1 17
  · simp [rsvField, BitVec.getLsbD_extractLsb', getLsbD_commandWord, show ¬ 18 + i < 8 by omega,
      show ¬ 18 + i < 16 by omega, show ¬ 18 + i = 16 by omega, show ¬ 18 + i = 17 by omega]

/-- The command's word carries its OP, SEL, F0 and F1, and its reserved bits are 0 (30_encoding.md R81, R83). -/
def Statement (i : Instr) : Prop :=
  opField (encode i) = i.opcode ∧ selField (encode i) = i.sel ∧ f0Field (encode i) = i.f0
    ∧ f1Field (encode i) = i.f1 ∧ rsvField (encode i) = 0

theorem nop : Statement .nop := fields_commandWord _ _ _ _
theorem init (kg ig : Bool) : Statement (.init kg ig) := fields_commandWord _ _ _ _
theorem rstchain : Statement .rstchain := fields_commandWord _ _ _ _
theorem enc : Statement .enc := fields_commandWord _ _ _ _
theorem dec : Statement .dec := fields_commandWord _ _ _ _
theorem encmsg : Statement .encmsg := fields_commandWord _ _ _ _
theorem decmsg : Statement .decmsg := fields_commandWord _ _ _ _
theorem perm (sel : Byte) : Statement (.perm sel) := fields_commandWord _ _ _ _
theorem sbox (sel : Byte) : Statement (.sbox sel) := fields_commandWord _ _ _ _
theorem ffunc : Statement .ffunc := fields_commandWord _ _ _ _
theorem round : Statement .round := fields_commandWord _ _ _ _
theorem ksub (sel : Byte) : Statement (.ksub sel) := fields_commandWord _ _ _ _
theorem crypt (dir : Bool) : Statement (.crypt dir) := fields_commandWord _ _ _ _

end Sys2Proof.Laws.EncodeFields
end

