-- ==== Sys2Proof/Laws/Decode.lean ====
section
/-! SUPPORT. Laws/Decode.lean: when each kind of command word decodes, said once. -/

namespace Sys2Proof

theorem decodePlain_ok {i j : Instr} {w : Word} :
    decodePlain i w = .ok j ↔ selField w = 0#8 ∧ f0Field w = false ∧ f1Field w = false ∧ j = i := by
  unfold decodePlain
  by_cases hs : selField w = 0#8 <;> cases h0 : f0Field w <;> cases h1 : f1Field w <;> simp [hs, @eq_comm Instr]

theorem decodeSelected_ok {legal : Byte → Bool} {mk : Byte → Instr} {j : Instr} {w : Word} :
    decodeSelected legal mk w = .ok j ↔
      legal (selField w) = true ∧ f0Field w = false ∧ f1Field w = false ∧ j = mk (selField w) := by
  unfold decodeSelected
  cases hs : legal (selField w) <;> cases h0 : f0Field w <;> cases h1 : f1Field w <;> simp [@eq_comm Instr]

theorem decodeInit_ok {j : Instr} {w : Word} :
    decodeInit w = .ok j ↔ selField w = 0#8 ∧ j = .init (f0Field w) (f1Field w) := by
  unfold decodeInit
  by_cases hs : selField w = 0#8 <;> simp [hs, @eq_comm Instr]

theorem decodeCrypt_ok {j : Instr} {w : Word} :
    decodeCrypt w = .ok j ↔ selField w = 0#8 ∧ f1Field w = false ∧ j = .crypt (f0Field w) := by
  unfold decodeCrypt
  by_cases hs : selField w = 0#8 <;> cases h1 : f1Field w <;> simp [hs, @eq_comm Instr]

/-- What a word that decodes holds: each field is the command's. -/
theorem decode_fields {w : Word} {i : Instr} (h : decode w = .ok i) :
    i.wf = true ∧ rsvField w = 0#46 ∧ opField w = i.opcode ∧ selField w = i.sel ∧ f0Field w = i.f0
      ∧ f1Field w = i.f1 := by
  have hop : ∀ n, n < 256 → (opField w).toNat = n → opField w = BitVec.ofNat 8 n := fun n hn h => by
    rw [← h, BitVec.ofNat_toNat, BitVec.setWidth_eq]
  unfold decode at h
  split at h
  · cases h
  · next hr =>
    rw [ne_eq, Decidable.not_not] at hr
    split at h
    case h_14 => cases h
    case h_8 e =>
      obtain ⟨hs, h0, h1, rfl⟩ := decodeSelected_ok.mp h
      exact ⟨hs, hr, hop _ (by decide) e, rfl, h0, h1⟩
    case h_9 e =>
      obtain ⟨hs, h0, h1, rfl⟩ := decodeSelected_ok.mp h
      exact ⟨hs, hr, hop _ (by decide) e, rfl, h0, h1⟩
    case h_12 e =>
      obtain ⟨hs, h0, h1, rfl⟩ := decodeSelected_ok.mp h
      exact ⟨hs, hr, hop _ (by decide) e, rfl, h0, h1⟩
    case h_2 e =>
      obtain ⟨hs, rfl⟩ := decodeInit_ok.mp h
      exact ⟨rfl, hr, hop _ (by decide) e, hs, rfl, rfl⟩
    case h_13 e =>
      obtain ⟨hs, h1, rfl⟩ := decodeCrypt_ok.mp h
      exact ⟨rfl, hr, hop _ (by decide) e, hs, rfl, h1⟩
    all_goals
      next e =>
        obtain ⟨hs, h0, h1, rfl⟩ := decodePlain_ok.mp h
        exact ⟨rfl, hr, hop _ (by decide) e, hs, h0, h1⟩

end Sys2Proof
end

