-- ==== Sys2Proof/Laws/Effects.lean ====
section
/-! SUPPORT. Laws/Effects.lean: everything a command can do, said once: it raises one error for one reason, or it
completes with one set of writes. Invariants and frames follow by cases on these, without unfolding a meaning. -/

namespace Sys2Proof.Machine

/-- The errors a command may raise, and when (60_exceptions.md R187 to R192). -/
inductive Raises (s : State) : Instr → ErrCode → Prop
  | illegal {i : Instr} : i.wf = false → Raises s i .illegalCmd
  | mode {kg ig : Bool} : modeUnsupported s.mode = true → Raises s (.init kg ig) .unsupportedMode
  | noInstance {i : Instr} : s.ksv = false →
      i ∈ [.enc, .dec, .encmsg, .decmsg, .crypt false, .crypt true] → Raises s i .notInitialised
  | length {i : Instr} : s.ksv = true → s.len.toNat % 8 ≠ 0 → i ∈ [.encmsg, .decmsg] →
      Raises s i .invalidInputLength
  | overrun {i : Instr} : s.ksv = true → s.len.toNat % 8 = 0 → s.nBuf < s.len.toNat → i ∈ [.encmsg, .decmsg] →
      Raises s i .bufferOverrun

/-- The message commands' writes. -/
def messageResult (block : State → Word → Word → Word × Word) (s : State) : State :=
  { s with
    chain := chainAfter s (messageLoop (block s) s.dbufEpoch (s.len.toNat / 8) 0 s.aiv s.dbuf).1
    dbuf := (messageLoop (block s) s.dbufEpoch (s.len.toNat / 8) 0 s.aiv s.dbuf).2 }

/-- The block commands' writes. -/
def blockResult (block : State → Word → Word → Word × Word) (s : State) : State :=
  { s with dout := (block s s.chain s.din).1, chain := chainAfter s (block s s.chain s.din).2 }

/-- INIT's writes. -/
def initResult (kg ig : Bool) (s : State) : State :=
  latchInstance (initKey kg s).1 (initIv ig (initKey kg s).2).1 (initIv ig (initKey kg s).2).2

/-- The writes of a command that completes, ERR and LASTOP apart. -/
inductive Writes (s : State) : Instr → State → Prop
  | nop : Writes s .nop s
  | rstchain : Writes s .rstchain { s with chain := s.aiv }
  | init {kg ig : Bool} : modeUnsupported s.mode = false → Writes s (.init kg ig) (initResult kg ig s)
  | enc : s.ksv = true → Writes s .enc (blockResult encryptBlock s)
  | dec : s.ksv = true → Writes s .dec (blockResult decryptBlock s)
  | encmsg : s.ksv = true → s.len.toNat % 8 = 0 → s.len.toNat ≤ s.nBuf →
      Writes s .encmsg (messageResult encryptBlock s)
  | decmsg : s.ksv = true → s.len.toNat % 8 = 0 → s.len.toNat ≤ s.nBuf →
      Writes s .decmsg (messageResult decryptBlock s)
  | perm {sel : Byte} {v : Word} : permSelLegal sel = true → permBody sel s = .ok { s with tout := v } →
      Writes s (.perm sel) { s with tout := v }
  | sbox {sel : Byte} {v : Word} : sboxSelLegal sel = true → sboxBody sel s = .ok { s with tout := v } →
      Writes s (.sbox sel) { s with tout := v }
  | ffunc : Writes s .ffunc { s with tout := (feistelF (tinHalf s) (tauxSubkey s)).setWidth 64 }
  | round : Writes s .round { s with tout := feistelRound s.tin (tauxSubkey s) }
  | ksub {sel : Byte} : ksubSelLegal sel = true →
      Writes s (.ksub sel) { s with tout := ((keySchedule s.tin).toList.getD (sel.toNat - 1) 0).setWidth 64 }
  | crypt {dir : Bool} : s.ksv = true →
      Writes s (.crypt dir) { s with tout := if dir then desD s.subkey s.tin else desE s.subkey s.tin }

/-- A body that raises for a reason `Raises` names or completes with writes `Writes` names. -/
theorem runCommand_effects {i : Instr} {body : State → Except Raise State} {s t : State}
    (hb : (∃ c, Raises s i c ∧ body s = .error (.err c)) ∨ ∃ u, Writes s i u ∧ body s = .ok u)
    (h : runCommand i.opcode body s = .next t) :
    (∃ c, Raises s i c ∧ t = raise i.opcode (.err c) s) ∨ ∃ u, Writes s i u ∧ t = complete i.opcode u := by
  rcases hb with ⟨c, hc, hb⟩ | ⟨u, hu, hb⟩
  · rw [runCommand_error hb] at h
    exact .inl ⟨c, hc, (Host.Outcome.next.inj h).symm⟩
  · rw [runCommand_ok hb] at h
    exact .inr ⟨u, hu, (Host.Outcome.next.inj h).symm⟩

theorem messageBody_effects (block : State → Word → Word → Word × Word) {s : State} {i : Instr}
    (hi : i ∈ [.encmsg, .decmsg])
    (hw : s.ksv = true → s.len.toNat % 8 = 0 → s.len.toNat ≤ s.nBuf → Writes s i (messageResult block s)) :
    (∃ c, Raises s i c ∧ messageBody block s = .error (.err c)) ∨
      ∃ u, Writes s i u ∧ messageBody block s = .ok u := by
  have hi' : i ∈ ([.enc, .dec, .encmsg, .decmsg, .crypt false, .crypt true] : List Instr) := by
    simp only [List.mem_cons] at hi ⊢
    tauto
  rw [messageBody_eq]
  cases hk : s.ksv with
  | false => exact .inl ⟨_, .noInstance hk hi', by simp⟩
  | true =>
    by_cases hm : s.len.toNat % 8 = 0
    · by_cases hn : s.nBuf < s.len.toNat
      · exact .inl ⟨_, .overrun hk hm hn hi, by simp [hm, hn]⟩
      · exact .inr ⟨_, hw hk hm (by omega), by simp [hk, hm, hn, messageResult]⟩
    · exact .inl ⟨_, .length hk hm hi, by simp [hm]⟩

/-- Everything `exec` can do: one error, which writes ERR and LASTOP alone, or the command's writes, ERR = 0 and
LASTOP (60_exceptions.md R185). -/
theorem exec_effects {i : Instr} {s t : State} (h : exec i s = .next t) :
    (∃ c, Raises s i c ∧ t = raise i.opcode (.err c) s) ∨ ∃ u, Writes s i u ∧ t = complete i.opcode u := by
  cases i with
  | nop => exact runCommand_effects (i := .nop) (.inr ⟨_, .nop, rfl⟩) h
  | rstchain =>
    exact runCommand_effects (i := .rstchain) (body := fun s => .ok { s with chain := s.aiv })
      (.inr ⟨_, .rstchain, rfl⟩) h
  | init kg ig =>
    refine runCommand_effects (i := .init kg ig) ?_ h
    rw [initBody_eq]
    cases hm : modeUnsupported s.mode with
    | false => exact .inr ⟨_, .init hm, rfl⟩
    | true => exact .inl ⟨_, .mode hm, rfl⟩
  | enc =>
    refine runCommand_effects (i := .enc) ?_ h
    rw [blockBody_eq]
    cases hk : s.ksv with
    | false => exact .inl ⟨_, .noInstance hk (by simp), rfl⟩
    | true => exact .inr ⟨_, .enc hk, by simp [hk, blockResult]⟩
  | dec =>
    refine runCommand_effects (i := .dec) ?_ h
    rw [blockBody_eq]
    cases hk : s.ksv with
    | false => exact .inl ⟨_, .noInstance hk (by simp), rfl⟩
    | true => exact .inr ⟨_, .dec hk, by simp [hk, blockResult]⟩
  | encmsg => exact runCommand_effects (i := .encmsg) (messageBody_effects _ (by simp) .encmsg) h
  | decmsg => exact runCommand_effects (i := .decmsg) (messageBody_effects _ (by simp) .decmsg) h
  | perm sel =>
    refine runCommand_effects (i := .perm sel) ?_ h
    rcases permBody_cases sel s with ⟨hs, v, hv⟩ | ⟨hs, hv⟩
    · exact .inr ⟨_, .perm hs hv, hv⟩
    · exact .inl ⟨_, .illegal hs, hv⟩
  | sbox sel =>
    refine runCommand_effects (i := .sbox sel) ?_ h
    rcases sboxBody_cases sel s with ⟨hs, v, hv⟩ | ⟨hs, hv⟩
    · exact .inr ⟨_, .sbox hs hv, hv⟩
    · exact .inl ⟨_, .illegal hs, hv⟩
  | ffunc => exact runCommand_effects (i := .ffunc) (.inr ⟨_, .ffunc, ffuncBody_eq s⟩) h
  | round => exact runCommand_effects (i := .round) (.inr ⟨_, .round, roundBody_eq s⟩) h
  | ksub sel =>
    refine runCommand_effects (i := .ksub sel) ?_ h
    rw [ksubBody_eq]
    cases hs : ksubSelLegal sel with
    | false => exact .inl ⟨_, .illegal hs, rfl⟩
    | true => exact .inr ⟨_, .ksub hs, rfl⟩
  | crypt dir =>
    refine runCommand_effects (i := .crypt dir) ?_ h
    rw [cryptBody_eq]
    cases hk : s.ksv with
    | false => exact .inl ⟨_, .noInstance hk (by cases dir <;> simp), rfl⟩
    | true => exact .inr ⟨_, .crypt hk, by simp [hk]⟩

/-- What a draw changes: the queue of answers or the count of free draws. -/
theorem draw64_frame (s : State) :
    (draw64 s).2 = { s with entropy := (draw64 s).2.entropy, drawCount := (draw64 s).2.drawCount } := by
  unfold draw64
  split <;> rfl

/-- A draw where an answer waits (00_scope.md R14; log entry 5). -/
theorem draw64_cons {s : State} {d : Word} {rest : List Word} (h : s.entropy = d :: rest) :
    draw64 s = (d, { s with entropy := rest }) := by
  simp only [draw64, h]

/-- A draw where no answer waits: a free value, and the count of draws rises (00_scope.md R14; log entry 5). -/
theorem draw64_nil {s : State} (h : s.entropy = []) :
    draw64 s = (Config.entropy s.drawCount, { s with drawCount := s.drawCount + 1 }) := by
  simp only [draw64, h]

/-- When INIT completes, and with what (45_control.md R172). -/
theorem exec_init {s : State} (kg ig : Bool) (hm : modeUnsupported s.mode = false) :
    exec (.init kg ig) s = .next (complete 0x01#8 (initResult kg ig s)) := by
  refine runCommand_ok ?_
  rw [initBody_eq, hm]
  rfl

/-- What INIT writes, and that it writes nothing else (45_control.md R172). -/
theorem initResult_frame (kg ig : Bool) (s : State) :
    ∃ k v es n, initResult kg ig s = { s with
        key := k, iv := v, subkey := keySchedule k, ksv := true, amode := s.mode.getLsbD 0, aiv := v, chain := v
        entropy := es, drawCount := n }
      ∧ (kg = false → k = s.key) ∧ ((ig = false ∨ s.mode ≠ 1#2) → v = s.iv)
      ∧ (kg = false → (ig = false ∨ s.mode ≠ 1#2) → es = s.entropy ∧ n = s.drawCount) := by
  have hk : (initKey kg s).2 = { s with
      entropy := (initKey kg s).2.entropy, drawCount := (initKey kg s).2.drawCount } := by
    cases kg
    · rfl
    · exact draw64_frame s
  have hm : (initKey kg s).2.mode = s.mode := by rw [hk]
  have hv : (initKey kg s).2.iv = s.iv := by rw [hk]
  by_cases hc : ig = true ∧ s.mode = 1#2
  · have hi : initIv ig (initKey kg s).2 = draw64 (initKey kg s).2 := by simp [initIv, hm, hc.1, hc.2]
    have hd : (draw64 (initKey kg s).2).2 = { s with
        entropy := (draw64 (initKey kg s).2).2.entropy, drawCount := (draw64 (initKey kg s).2).2.drawCount } := by
      rw [draw64_frame (initKey kg s).2, hk]
    refine ⟨(initKey kg s).1, (draw64 (initKey kg s).2).1, (draw64 (initKey kg s).2).2.entropy,
      (draw64 (initKey kg s).2).2.drawCount, ?_, ?_, ?_, ?_⟩
    · rw [initResult, hi, hd]; rfl
    · rintro rfl; rfl
    · rintro (h | h)
      · rw [hc.1] at h; cases h
      · exact absurd hc.2 h
    · rintro - (h | h)
      · rw [hc.1] at h; cases h
      · exact absurd hc.2 h
  · have hi : initIv ig (initKey kg s).2 = (s.iv, (initKey kg s).2) := by
      have : (ig && s.mode == 1#2) = false := by
        rw [Bool.eq_false_iff]
        simpa using hc
      simp only [initIv, hm, hv, this]
      rfl
    refine ⟨(initKey kg s).1, s.iv, (initKey kg s).2.entropy, (initKey kg s).2.drawCount, ?_, ?_, ?_, ?_⟩
    · rw [initResult, hi, hk]; rfl
    · rintro rfl; rfl
    · exact fun _ => rfl
    · rintro rfl -; exact ⟨rfl, rfl⟩

/-- When ENCMSG completes, and with what (44_chaining.md R155). -/
theorem exec_encmsg {s : State} (hk : s.ksv = true) (hm : s.len.toNat % 8 = 0) (hn : s.len.toNat ≤ s.nBuf) :
    exec .encmsg s = .next (complete 0x12#8 (messageResult encryptBlock s)) := by
  refine runCommand_ok ?_
  rw [messageBody_eq]
  simp [hk, hm, Nat.not_lt.mpr hn, messageResult]

/-- When DECMSG completes, and with what (44_chaining.md R156). -/
theorem exec_decmsg {s : State} (hk : s.ksv = true) (hm : s.len.toNat % 8 = 0) (hn : s.len.toNat ≤ s.nBuf) :
    exec .decmsg s = .next (complete 0x13#8 (messageResult decryptBlock s)) := by
  refine runCommand_ok ?_
  rw [messageBody_eq]
  simp [hk, hm, Nat.not_lt.mpr hn, messageResult]

end Sys2Proof.Machine
end

