-- ==== Sys2Proof/Laws/Memory.lean ====
section
/-! SUPPORT. Laws/Memory.lean: a read after a write, the canonical form, and DBUF read and written in blocks. -/

namespace Sys2Proof.Machine

theorem Memory.read_write_same (m : Memory) (a : Nat) (b : Byte) : (m.write a b).read a = some b := by
  induction m with
  | nil => simp [Memory.write, Memory.read]
  | cons c rest ih =>
    obtain ⟨k, v⟩ := c
    simp only [Memory.write]
    split
    · simp [Memory.read]
    · split
      · simp [Memory.read]
      · next h => simp [Memory.read, h, ih]

theorem Memory.read_write_other (m : Memory) {a x : Nat} (b : Byte) (hx : x ≠ a) :
    (m.write a b).read x = m.read x := by
  induction m with
  | nil => simp [Memory.write, Memory.read, hx]
  | cons c rest ih =>
    obtain ⟨k, v⟩ := c
    simp only [Memory.write]
    split
    · simp [Memory.read, hx]
    · split
      · next h => subst h; simp [Memory.read, hx]
      · simp [Memory.read, ih]

theorem Memory.risingFrom_write {m : Memory} {lo a : Nat} (b : Byte) (h : m.risingFrom lo = true) (ha : lo ≤ a) :
    (m.write a b).risingFrom lo = true := by
  induction m generalizing lo with
  | nil => simp [Memory.write, Memory.risingFrom, ha]
  | cons c rest ih =>
    obtain ⟨k, v⟩ := c
    simp only [Memory.risingFrom, Bool.and_eq_true, decide_eq_true_eq] at h
    simp only [Memory.write]
    split
    · simp only [Memory.risingFrom, Bool.and_eq_true, decide_eq_true_eq]
      exact ⟨ha, by omega, h.2⟩
    · split
      · next hak => subst hak; simp [Memory.risingFrom, ha, h.2]
      · simp only [Memory.risingFrom, Bool.and_eq_true, decide_eq_true_eq]
        exact ⟨h.1, ih h.2 (by omega)⟩

/-- A write keeps the canonical form. -/
theorem Memory.wf_write {m : Memory} (a : Nat) (b : Byte) (h : m.wf = true) : (m.write a b).wf = true :=
  Memory.risingFrom_write b h (Nat.zero_le a)

/-- A write inside the buffer stays inside it. -/
theorem Memory.below_write {m : Memory} {n a : Nat} (b : Byte) (h : m.below n = true) (ha : a < n) :
    (m.write a b).below n = true := by
  induction m with
  | nil => simp [Memory.write, Memory.below, ha]
  | cons c rest ih =>
    obtain ⟨k, v⟩ := c
    simp only [Memory.below, List.all_cons, Bool.and_eq_true, decide_eq_true_eq] at h ih ⊢
    simp only [Memory.write]
    split
    · simp [ha, h.1, h.2]
    · split
      · simp [ha, h.2]
      · simp [h.1, ih h.2]

theorem byteIn_write_same (e : Nat) (m : Memory) (a : Nat) (b : Byte) : byteIn e (m.write a b) a = b := by
  simp [byteIn, Memory.read_write_same]

theorem byteIn_write_other (e : Nat) (m : Memory) {a x : Nat} (b : Byte) (hx : x ≠ a) :
    byteIn e (m.write a b) x = byteIn e m x := by
  simp [byteIn, Memory.read_write_other m b hx]

/-- What `MemWrite` leaves in DBUF: its bytes where it stores, and everything else as it was. -/
theorem byteIn_memWriteFirst (e : Nat) (m : Memory) (a : Nat) {n : Nat} (v : BitVec (8 * n)) (count x : Nat) :
    byteIn e (memWriteFirst m a v count) x =
      if a ≤ x ∧ x < a + count then byteOf v (x - a) else byteIn e m x := by
  induction count with
  | zero => rw [if_neg (by omega)]; rfl
  | succ k ih =>
    simp only [memWriteFirst]
    by_cases hx : x = a + k
    · subst hx
      rw [byteIn_write_same, if_pos (by omega), Nat.add_sub_cancel_left]
    · rw [byteIn_write_other e _ _ hx, ih]
      by_cases h : a ≤ x ∧ x < a + k
      · rw [if_pos h, if_pos (by omega)]
      · rw [if_neg h, if_neg (by omega)]

theorem memWriteFirst_wf {m : Memory} (a : Nat) {n : Nat} (v : BitVec (8 * n)) (count : Nat) (h : m.wf = true) :
    (memWriteFirst m a v count).wf = true := by
  induction count with
  | zero => exact h
  | succ k ih => exact Memory.wf_write _ _ ih

theorem memWriteFirst_below {m : Memory} {lim : Nat} (a : Nat) {n : Nat} (v : BitVec (8 * n)) (count : Nat)
    (h : m.below lim = true) (hlim : a + count ≤ lim) : (memWriteFirst m a v count).below lim = true := by
  induction count with
  | zero => exact h
  | succ k ih => exact Memory.below_write _ (ih (by omega)) (by omega)

/-- What a block store leaves in DBUF. -/
theorem byteIn_writeBlock (e : Nat) (m : Memory) (a : Nat) (v : Word) (x : Nat) :
    byteIn e (writeBlock m a v) x = if a ≤ x ∧ x < a + 8 then byteOf (n := 8) v (x - a) else byteIn e m x :=
  byteIn_memWriteFirst e m a (n := 8) v 8 x

theorem writeBlock_wf {m : Memory} (a : Nat) (v : Word) (h : m.wf = true) : (writeBlock m a v).wf = true :=
  memWriteFirst_wf a (n := 8) v 8 h

theorem writeBlock_below {m : Memory} {lim : Nat} (a : Nat) (v : Word) (h : m.below lim = true)
    (hlim : a + 8 ≤ lim) : (writeBlock m a v).below lim = true :=
  memWriteFirst_below a (n := 8) v 8 h hlim

/-- `MemRead` depends on the bytes it reads alone. -/
theorem memRead_congr {e₁ e₂ : Nat} {m₁ m₂ : Memory} {a : Nat} (n : Nat)
    (h : ∀ k, k < n → byteIn e₁ m₁ (a + k) = byteIn e₂ m₂ (a + k)) : memRead e₁ m₁ a n = memRead e₂ m₂ a n := by
  induction n with
  | zero => rfl
  | succ n ih =>
    simp only [memRead]
    rw [ih fun k hk => h k (by omega), h n (by omega)]

theorem readBlock_congr {e₁ e₂ : Nat} {m₁ m₂ : Memory} {a : Nat}
    (h : ∀ k, k < 8 → byteIn e₁ m₁ (a + k) = byteIn e₂ m₂ (a + k)) : readBlock e₁ m₁ a = readBlock e₂ m₂ a :=
  memRead_congr 8 h

/-- Bit `i` of what `MemRead` returns is a bit of the byte that holds it, the first byte most significant. -/
theorem memRead_getLsbD (e : Nat) (m : Memory) (a n i : Nat) (hi : i < 8 * n) :
    (memRead e m a n).getLsbD i = (byteIn e m (a + (n - 1 - i / 8))).getLsbD (i % 8) := by
  induction n generalizing i with
  | zero => omega
  | succ n ih =>
    simp only [memRead]
    rw [BitVec.getLsbD_append]
    split
    · next h => rw [show n + 1 - 1 - i / 8 = n by omega, Nat.mod_eq_of_lt h]
    · next h =>
      rw [ih (i - 8) (by omega), show n - 1 - (i - 8) / 8 = n + 1 - 1 - i / 8 by omega,
        show (i - 8) % 8 = i % 8 by omega]

/-- `MemRead`'s byte `k` is the byte at offset `a + k` (20_memory.md R66). -/
theorem byteOf_memRead (e : Nat) (m : Memory) (a n k : Nat) (hk : k < n) :
    byteOf (memRead e m a n) k = byteIn e m (a + k) := by
  refine BitVec.eq_of_getLsbD_eq fun i hi => ?_
  rw [byteOf, BitVec.getLsbD_extractLsb', memRead_getLsbD _ _ _ _ _ (by omega)]
  rw [show n - 1 - (8 * (n - 1 - k) + i) / 8 = k by omega, show (8 * (n - 1 - k) + i) % 8 = i by omega]
  simp [hi]

/-- A value is decided by its bytes. -/
theorem eq_of_byteOf_eq {n : Nat} {v w : BitVec (8 * n)} (h : ∀ k, k < n → byteOf v k = byteOf w k) : v = w := by
  refine BitVec.eq_of_getLsbD_eq fun i hi => ?_
  have hb := congrArg (fun b => b.getLsbD (i % 8)) (h (n - 1 - i / 8) (by omega))
  have hlt : i % 8 < 8 := Nat.mod_lt _ (by omega)
  have hi' : 8 * (n - 1 - (n - 1 - i / 8)) + i % 8 = i := by omega
  simpa [byteOf, BitVec.getLsbD_extractLsb', hlt, hi'] using hb

/-- A block stored is read back. -/
theorem readBlock_writeBlock_same (e : Nat) (m : Memory) (a : Nat) (v : Word) :
    readBlock e (writeBlock m a v) a = v := by
  refine eq_of_byteOf_eq (n := 8) fun k hk => ?_
  rw [show readBlock e (writeBlock m a v) a = memRead e (writeBlock m a v) a 8 from rfl,
    byteOf_memRead _ _ _ _ _ hk, byteIn_writeBlock, if_pos (by omega), Nat.add_sub_cancel_left]

/-- A block stored elsewhere, without overlap, leaves a block read as it was. -/
theorem readBlock_writeBlock_other (e : Nat) (m : Memory) {a x : Nat} (v : Word) (h : x + 8 ≤ a ∨ a + 8 ≤ x) :
    readBlock e (writeBlock m a v) x = readBlock e m x := by
  refine readBlock_congr fun k hk => ?_
  rw [byteIn_writeBlock, if_neg (by omega)]

end Sys2Proof.Machine
end

