-- ==== Sys2Proof/Laws/Message.lean ====
section
/-! SUPPORT. Laws/Message.lean: what the message loop does to DBUF, said once: each block is the block function's
result on the block it was, with the chain value carried on, and every other byte is as it was. -/

namespace Sys2Proof.Machine

/-- The results of a block function over blocks in order, the chain value carried on. -/
def blockResults (block : Word → Word → Word × Word) : Word → List Word → List Word
  | _, [] => []
  | chain, x :: rest => (block chain x).1 :: blockResults block (block chain x).2 rest

/-- The chain value after the blocks. -/
def blockChain (block : Word → Word → Word × Word) : Word → List Word → Word
  | chain, [] => chain
  | chain, x :: rest => blockChain block (block chain x).2 rest

theorem blocksFrom_length (e : Nat) (m : Memory) (n i : Nat) : (blocksFrom e m n i).length = n := by
  induction n generalizing i with
  | zero => rfl
  | succ n ih => simp [blocksFrom, ih]

/-- Blocks depend on their bytes alone. -/
theorem blocksFrom_congr {e₁ e₂ : Nat} {m₁ m₂ : Memory} (n i : Nat)
    (h : ∀ x, 8 * i ≤ x → x < 8 * (i + n) → byteIn e₁ m₁ x = byteIn e₂ m₂ x) :
    blocksFrom e₁ m₁ n i = blocksFrom e₂ m₂ n i := by
  induction n generalizing i with
  | zero => rfl
  | succ n ih =>
    simp only [blocksFrom]
    rw [readBlock_congr fun k hk => h _ (by omega) (by omega), ih (i + 1) fun x h1 h2 => h x (by omega) (by omega)]

/-- Equal blocks are equal bytes. -/
theorem byteIn_eq_of_blocksFrom {e₁ e₂ : Nat} {m₁ m₂ : Memory} (n i : Nat)
    (h : blocksFrom e₁ m₁ n i = blocksFrom e₂ m₂ n i) (x : Nat) (h1 : 8 * i ≤ x) (h2 : x < 8 * (i + n)) :
    byteIn e₁ m₁ x = byteIn e₂ m₂ x := by
  induction n generalizing i with
  | zero => omega
  | succ n ih =>
    simp only [blocksFrom, List.cons.injEq] at h
    by_cases hx : x < 8 * (i + 1)
    · have hb := congrArg (fun v : Word => byteOf (n := 8) v (x - 8 * i)) h.1
      simp only [readBlock] at hb
      rw [byteOf_memRead _ _ _ _ _ (by omega), byteOf_memRead _ _ _ _ _ (by omega),
        show 8 * i + (x - 8 * i) = x by omega] at hb
      exact hb
    · exact ih (i + 1) h.2 (by omega) (by omega)

/-- The loop leaves every byte outside its blocks as it was. -/
theorem messageLoop_outside (block : Word → Word → Word × Word) (e e' n i : Nat) (chain : Word) (m : Memory) (x : Nat)
    (hx : x < 8 * i ∨ 8 * (i + n) ≤ x) :
    byteIn e' (messageLoop block e n i chain m).2 x = byteIn e' m x := by
  induction n generalizing i chain m with
  | zero => rfl
  | succ n ih =>
    simp only [messageLoop]
    rw [ih (i + 1) _ _ (by omega), byteIn_writeBlock, if_neg (by omega)]

/-- The loop's blocks and its final chain value. -/
theorem messageLoop_blocks (block : Word → Word → Word × Word) (e n i : Nat) (chain : Word) (m : Memory) :
    blocksFrom e (messageLoop block e n i chain m).2 n i = blockResults block chain (blocksFrom e m n i)
      ∧ (messageLoop block e n i chain m).1 = blockChain block chain (blocksFrom e m n i) := by
  induction n generalizing i chain m with
  | zero => exact ⟨rfl, rfl⟩
  | succ n ih =>
    have hrest : ∀ v, blocksFrom e (writeBlock m (8 * i) v) n (i + 1) = blocksFrom e m n (i + 1) := fun v =>
      blocksFrom_congr n (i + 1) fun x h1 h2 => by rw [byteIn_writeBlock, if_neg (by omega)]
    have hfirst : ∀ (c : Word) (m' : Memory),
        readBlock e (messageLoop block e n (i + 1) c m').2 (8 * i) = readBlock e m' (8 * i) := fun c m' =>
      readBlock_congr fun k hk => messageLoop_outside _ _ _ _ _ _ _ _ (by omega)
    simp only [messageLoop, blocksFrom, blockResults, blockChain, hfirst, readBlock_writeBlock_same]
    rw [(ih (i + 1) _ _).1, (ih (i + 1) _ _).2, hrest]
    exact ⟨rfl, rfl⟩

theorem messageLoop_wf (block : Word → Word → Word × Word) (e n i : Nat) (chain : Word) {m : Memory}
    (h : m.wf = true) : (messageLoop block e n i chain m).2.wf = true := by
  induction n generalizing i chain m with
  | zero => exact h
  | succ n ih => exact ih _ _ (writeBlock_wf _ _ h)

theorem messageLoop_below (block : Word → Word → Word × Word) (e n i : Nat) (chain : Word) {m : Memory} {lim : Nat}
    (h : m.below lim = true) (hlim : 8 * (i + n) ≤ lim) : (messageLoop block e n i chain m).2.below lim = true := by
  induction n generalizing i chain m with
  | zero => exact h
  | succ n ih => exact ih _ _ (writeBlock_below _ _ h (by omega)) (by omega)

end Sys2Proof.Machine
end

