-- ==== Sys2Proof/Tests/Slice0.lean ====
section
/-! SUPPORT. Tests/Slice0.lean: the smoke test of WellFormed, each command's word decoded, a few vectors of
95_test_vectors.md per command, and for each obligation with hypotheses a state that meets them. -/

namespace Sys2Proof.Tests

open Sys2Proof Sys2Proof.Machine

set_option Elab.async false

/-! ## States and how a test reads an outcome -/

/-- After reset, N_BUF = 32 as in section 3 of 95_test_vectors.md. -/
def blank : State := { State.reset with nBuf := 32 }

/-- The walk-through key of 95_test_vectors.md section 2.3. -/
def walkKey : Word := 0x133457799BBCDFF1#64

/-- Its schedule, as that section prints it. -/
def walkSchedule : Vector Subkey 16 := #v[
  0x1B02EFFC7072, 0x79AED9DBC9E5, 0x55FC8A42CF99, 0x72ADD6DB351D, 0x7CEC07EB53A8, 0x63A53E507B2F,
  0xEC84B7F618BC, 0xF78A3AC13BFB, 0xE0DBEBEDE781, 0xB1F347BA464F, 0x215FD3DED386, 0x7571F59467E9,
  0x97C5D1FABA41, 0x5F43B7F2E73A, 0xBF918D3D3F0A, 0xCB3D8B0E17F5]

/-- The IV of its section 2.7. -/
def walkIv : Word := 0x0011223344556677#64

/-- A valid instance with that key and IV, under ECB or CBC. -/
def ready (cbc : Bool) : State :=
  { blank with ksv := true, amode := cbc, subkey := walkSchedule, aiv := walkIv, chain := walkIv }

/-- The host offers one transaction. -/
def offer (t : Transaction) (s : State) : State := { s with pending := [t] }

/-- The outcome is a next state in which `p` holds. -/
def answers (o : Host.Outcome State Fault Refusal) (p : State → Bool) : Bool :=
  match o with
  | .next t => p t
  | _ => false

/-- A block of DBUF in the state. -/
def blockAt (s : State) (a : Nat) : Word := readBlock s.dbufEpoch s.dbuf a

/-! ## WellFormed: a term each check refuses, and the terms at its limits -/

theorem test_wf_perm : (Instr.perm 6).wf = false ∧ (Instr.perm 255).wf = false ∧ (Instr.perm 5).wf = true := by decide
theorem test_wf_sbox : (Instr.sbox 8).wf = false ∧ (Instr.sbox 0).wf = true ∧ (Instr.sbox 7).wf = true := by decide
theorem test_wf_ksub : (Instr.ksub 0).wf = false ∧ (Instr.ksub 17).wf = false ∧ (Instr.ksub 1).wf = true
    ∧ (Instr.ksub 16).wf = true := by decide

/-! ## Decode: a word of each command, bit by bit from 30_encoding.md R81 and R83: RSV, F1, F0, SEL, OP -/

theorem test_decode_nop : decode (0#46 ++ 0b0#1 ++ 0b0#1 ++ 0b00000000#8 ++ 0b00000000#8) = .ok .nop := by
  decide +kernel
theorem test_decode_init :
    decode (0#46 ++ 0b1#1 ++ 0b0#1 ++ 0b00000000#8 ++ 0b00000001#8) = .ok (.init false true)
      ∧ decode (0#46 ++ 0b0#1 ++ 0b1#1 ++ 0b00000000#8 ++ 0b00000001#8) = .ok (.init true false) := by decide +kernel
theorem test_decode_rstchain : decode (0#46 ++ 0b0#1 ++ 0b0#1 ++ 0b00000000#8 ++ 0b00000010#8) = .ok .rstchain := by
  decide +kernel
theorem test_decode_enc : decode (0#46 ++ 0b0#1 ++ 0b0#1 ++ 0b00000000#8 ++ 0b00010000#8) = .ok .enc := by
  decide +kernel
theorem test_decode_dec : decode (0#46 ++ 0b0#1 ++ 0b0#1 ++ 0b00000000#8 ++ 0b00010001#8) = .ok .dec := by
  decide +kernel
theorem test_decode_encmsg : decode (0#46 ++ 0b0#1 ++ 0b0#1 ++ 0b00000000#8 ++ 0b00010010#8) = .ok .encmsg := by
  decide +kernel
theorem test_decode_decmsg : decode (0#46 ++ 0b0#1 ++ 0b0#1 ++ 0b00000000#8 ++ 0b00010011#8) = .ok .decmsg := by
  decide +kernel
theorem test_decode_perm : decode (0#46 ++ 0b0#1 ++ 0b0#1 ++ 0b00000101#8 ++ 0b00100000#8) = .ok (.perm 5) := by
  decide +kernel
theorem test_decode_sbox : decode (0#46 ++ 0b0#1 ++ 0b0#1 ++ 0b00000111#8 ++ 0b00100001#8) = .ok (.sbox 7) := by
  decide +kernel
theorem test_decode_ffunc : decode (0#46 ++ 0b0#1 ++ 0b0#1 ++ 0b00000000#8 ++ 0b00100010#8) = .ok .ffunc := by
  decide +kernel
theorem test_decode_round : decode (0#46 ++ 0b0#1 ++ 0b0#1 ++ 0b00000000#8 ++ 0b00100011#8) = .ok .round := by
  decide +kernel
theorem test_decode_ksub : decode (0#46 ++ 0b0#1 ++ 0b0#1 ++ 0b00010000#8 ++ 0b00100100#8) = .ok (.ksub 16) := by
  decide +kernel
theorem test_decode_crypt :
    decode (0#46 ++ 0b0#1 ++ 0b1#1 ++ 0b00000000#8 ++ 0b00100101#8) = .ok (.crypt true)
      ∧ decode (0#46 ++ 0b0#1 ++ 0b0#1 ++ 0b00000000#8 ++ 0b00100101#8) = .ok (.crypt false) := by decide +kernel

/-- Each way a word is illegal (30_encoding.md R84, R87). -/
theorem test_decode_rejects :
    decode (1#64 <<< 63) = .error .reservedBits ∧ decode 0x40001#64 = .error .reservedBits
      ∧ decode 0x26#64 = .error .unassignedOp ∧ decode 0x100#64 = .error .selector
      ∧ decode 0x820#64 = .error .selector ∧ decode 0x821#64 = .error .selector
      ∧ decode 0x1124#64 = .error .selector ∧ decode 0x10010#64 = .error .undefinedFlag
      ∧ decode 0x20025#64 = .error .undefinedFlag := by decide +kernel

/-- The host's two probes, on the table's word of INIT with both flags. -/
theorem test_table_word : decodeTableWord 64 0x30001 = some (.init true true)
    ∧ answers (step (State.reset.withFetchWord 64 0x30001))
        (fun t => t.cmd == 0x30001#64 && t.ksv && t.lastop == 0x01#8) = true := by decide +kernel

/-! ## The commands, on vectors of 95_test_vectors.md -/

/-- Section 2.9, first row. -/
theorem test_nop : answers (exec .nop { blank with err := 5, lastop := 0x12 })
    (fun t => t.err == 0 && t.lastop == 0 && !t.ksv) = true := by decide +kernel

/-- Section 2.9: INIT under CBC. -/
theorem test_init_cbc : answers (exec (.init false false) { blank with key := walkKey, mode := 1, iv := walkIv })
    (fun t => (statusHalf t) == 0x0130#16 && t.aiv == walkIv && t.chain == walkIv && t.subkey == walkSchedule)
      = true := by decide +kernel

/-- Section 2.9: INIT.KG.IG under ECB makes one draw. -/
theorem test_init_draw : answers (exec (.init true true) { blank with iv := 5, entropy := [walkKey, 7] })
    (fun t => (statusHalf t) == 0x0110#16 && t.key == walkKey && t.iv == 5 && t.aiv == 5 && t.chain == 5
      && t.entropy == [7]) = true := by decide +kernel

/-- Section 2.7: RSTCHAIN. -/
theorem test_rstchain : answers (exec .rstchain { ready true with chain := 0x6897B0FCB6C740E8 })
    (fun t => t.chain == walkIv && t.lastop == 2) = true := by decide +kernel

/-- Section 2.7: ENC 1, under CBC. -/
theorem test_enc_cbc :
    answers (exec .enc { ready true with din := 0x1111111111111111, chain := 0xC2226FFD74B72C42 })
      (fun t => t.dout == 0x56EBFEC1F9A7B686 && t.chain == 0x56EBFEC1F9A7B686) = true := by decide +kernel

/-- Section 2.7: ENC under ECB leaves CHAIN. -/
theorem test_enc_ecb : answers (exec .enc { ready false with din := 0x0123456789ABCDEF })
    (fun t => t.dout == 0x85E813540F0AB405 && t.chain == walkIv) = true := by decide +kernel

/-- Section 2.7: DEC 1, under CBC; the new CHAIN is the input (90_conflicts.md C3). -/
theorem test_dec_cbc :
    answers (exec .dec { ready true with din := 0x56EBFEC1F9A7B686, chain := 0xC2226FFD74B72C42 })
      (fun t => t.dout == 0x1111111111111111 && t.chain == 0x56EBFEC1F9A7B686) = true := by decide +kernel

/-- Section 2.8: ENCMSG on the first two of its blocks, under CBC; section 2.7 gives the ciphertexts. -/
theorem test_encmsg_cbc :
    answers (exec .encmsg { ready true with
        len := 16, chain := 9, dbuf := writeBlock (writeBlock [] 0 0x0123456789ABCDEF) 8 0x1111111111111111 })
      (fun t => blockAt t 0 == 0xC2226FFD74B72C42 && blockAt t 8 == 0x56EBFEC1F9A7B686
        && t.chain == 0x56EBFEC1F9A7B686) = true := by decide +kernel

/-- Section 2.8, length corner cases: an empty message under CBC sets CHAIN to AIV. -/
theorem test_encmsg_empty : answers (exec .encmsg { ready true with chain := 9 })
    (fun t => t.err == 0 && t.chain == walkIv && t.dbuf == []) = true := by decide +kernel

/-- Section 2.8: DECMSG of those ciphertexts. -/
theorem test_decmsg_cbc :
    answers (exec .decmsg { ready true with
        len := 16, chain := 9, dbuf := writeBlock (writeBlock [] 0 0xC2226FFD74B72C42) 8 0x56EBFEC1F9A7B686 })
      (fun t => blockAt t 0 == 0x0123456789ABCDEF && blockAt t 8 == 0x1111111111111111
        && t.chain == 0x56EBFEC1F9A7B686) = true := by decide +kernel

/-- Section 2.8, length corner cases: the mod-8 check comes first. -/
theorem test_decmsg_length :
    answers (exec .decmsg { ready true with len := 0xFFFFFFFFFFFFFFFF }) (fun t => t.err == 4) = true
      ∧ answers (exec .decmsg { ready true with len := 0xFFFFFFFFFFFFFFF8 }) (fun t => t.err == 5) = true := by
  decide +kernel

/-- Section 2.1: E ignores TIN[63:32] and repeats the edge bits. -/
theorem test_perm_e : answers (exec (.perm 2) { blank with tin := 0xFFFFFFFFF0AAF0AA })
    (fun t => t.tout == 0x7A15557A1555) = true := by decide +kernel

/-- Section 2.1: PC-1, left then right. -/
theorem test_perm_pc1 : answers (exec (.perm 4) { blank with tin := walkKey })
    (fun t => t.tout == 0xF0CCAAF556678F) = true := by decide +kernel

/-- Section 2.2: the column of 0x0B, row 1, column 5. -/
theorem test_sbox :
    answers (exec (.sbox 3) { blank with tin := 0x0B }) (fun t => t.tout == 0xF) = true
      ∧ answers (exec (.sbox 7) { blank with tin := 0xFFFFFFFFFFFFFFCB }) (fun t => t.tout == 0x3) = true := by
  decide +kernel

/-- Section 2.4, first row, with the unused bits set. -/
theorem test_ffunc : answers (exec .ffunc { blank with tin := 0xFFFFFFFFF0AAF0AA, taux := 0xFFFF1B02EFFC7072 })
    (fun t => t.tout == 0x00000000234AA9BB) = true := by decide +kernel

/-- Section 2.5, first row. -/
theorem test_round : answers (exec .round { blank with tin := 0xCC00CCFFF0AAF0AA, taux := 0x1B02EFFC7072 })
    (fun t => t.tout == 0xF0AAF0AAEF4A6544) = true := by decide +kernel

/-- Section 2.3: the first and the last subkey; nothing of the instance changes. -/
theorem test_ksub :
    answers (exec (.ksub 1) { blank with tin := walkKey }) (fun t => t.tout == 0x1B02EFFC7072 && !t.ksv) = true
      ∧ answers (exec (.ksub 16) { blank with tin := walkKey }) (fun t => t.tout == 0xCB3D8B0E17F5) = true := by
  decide +kernel

/-- Section 2.6, first two rows. -/
theorem test_crypt :
    answers (exec (.crypt false) { ready true with tin := 0x0123456789ABCDEF })
        (fun t => t.tout == 0x85E813540F0AB405 && t.chain == walkIv) = true
      ∧ answers (exec (.crypt true) { ready false with tin := 0x85E813540F0AB405 })
        (fun t => t.tout == 0x0123456789ABCDEF) = true := by decide +kernel

/-! ## The host's transactions -/

/-- Section 2.9: STATUS after an unassigned OP, and CMD keeps the word; while FAULT is set nothing happens. -/
theorem test_illegal_word :
    answers (step (offer (.regWrite 0x00#8 3) blank)) (fun t => statusHalf t == 0x0301#16 && t.cmd == 3) = true
      ∧ answers (step (offer (.regWrite 0x00#8 3) { blank with fault := true }))
        (fun t => t.cmd == 0 && t.err == 0 && t.fault) = true := by decide +kernel

/-- 20_memory.md R65: DBUF's last byte is written, the one past it is not; R66: the first byte is most significant. -/
theorem test_bufwrite :
    answers (step (offer (.bufWrite 31 0xAB) blank)) (fun t => bufRead t 31 == 0xAB) = true
      ∧ answers (step (offer (.bufWrite 32 0xAB) blank)) (fun t => t.dbuf == [] && bufRead t 32 == 0) = true
      ∧ byteIn 0 (writeBlock [] 0 0x0123456789ABCDEF) 0 = 0x01#8 := by decide +kernel

/-! ## Witnesses: for each obligation with hypotheses, states and operands that meet them, clause by clause -/

/-- Every register different, to tell which one an index names. -/
def marked : State :=
  { blank with
    cmd := 1, err := 2, ksv := true, amode := true, lastop := 0xA5, key := 3, iv := 4, mode := 3, chain := 5, din := 6
    dout := 7, len := 8, tin := 9, taux := 10, tout := 11, aiv := 12, subkey := walkSchedule }

/-- EncodeThenDecodeGivesTheCommand. -/
theorem test_witness_encode : ∀ i ∈ [Instr.nop, .init true true, .crypt true, .perm 0, .perm 5, .sbox 0, .sbox 7,
    .ksub 1, .ksub 16], i.wf = true := by decide

/-- DecodedWordIsTheEncoding. -/
theorem test_witness_decoded : ∃ (w : Word) (i : Instr), decode w = .ok i := ⟨0x1024, .ksub 16, by decide +kernel⟩

/-- IllegalWordRaisesIllegalCmd: a legal word, and an illegal one written. -/
theorem test_witness_illegal : legal 0x1024#64 = true
    ∧ ∃ (s : State) (w : Word) (rest : List Transaction),
      s.pending = .regWrite 0x00#8 w :: rest ∧ s.fault = false ∧ legal w = false :=
  ⟨by decide +kernel, offer (.regWrite 0 0x1124) blank, _, _, rfl, rfl, by decide +kernel⟩

/-- StepRunsTheDecodedCommand. -/
theorem test_witness_step : ∃ (s : State) (w : Word) (rest : List Transaction) (i : Instr),
    s.pending = .regWrite 0x00#8 w :: rest ∧ s.fault = false ∧ decode w = .ok i :=
  ⟨offer (.regWrite 0 0x12) (ready true), _, _, .encmsg, rfl, rfl, by decide +kernel⟩

/-- EveryStepAnswersANextState: a host that offers nothing. -/
theorem test_witness_idle : blank.pending = [] := rfl

/-- ResetLeavesTheStatedState: a reset asserted on a used machine. -/
theorem test_witness_reset : ∃ t s rest, (s : State) = offer .reset marked ∧ s.pending = .reset :: rest
    ∧ step s = .next t := ⟨_, _, _, rfl, rfl, rfl⟩

/-- RegisterReadsReturnTheirRegister: every named index, and the edges of the subkeys and of the reserved ranges. -/
theorem test_witness_reads :
    ([(0x00, 1), (0x01, 0xA532), (0x02, 3), (0x03, 4), (0x04, 3), (0x05, 5), (0x06, 6), (0x07, 7), (0x08, 8),
        (0x09, 9), (0x0A, 10), (0x0B, 11), (0x0C, 12), (0x0D, 0), (0x0F, 0), (0x10, 0x1B02EFFC7072),
        (0x1F, 0xCB3D8B0E17F5), (0x20, 0), (0xFF, 0)] : List (Byte × Word)).all (fun x =>
      answers (step (offer (.regRead x.1) marked)) (fun t => t.reply == .word x.2)) = true := by decide +kernel

/-- RegisterWritesStoreTheirRegister: every named index, CMD in both states of FAULT, and indices that store nothing. -/
theorem test_witness_writes :
    (∀ x ∈ ([(0x02, { marked with key := 21 }), (0x03, { marked with iv := 21 }), (0x04, { marked with mode := 1 }),
        (0x05, { marked with chain := 21 }), (0x06, { marked with din := 21 }), (0x08, { marked with len := 21 }),
        (0x09, { marked with tin := 21 }), (0x0A, { marked with taux := 21 }), (0x01, marked), (0x07, marked),
        (0x0B, marked), (0x10, marked), (0xFF, marked)] : List (Byte × State)),
      answers (step (offer (.regWrite x.1 21) marked))
        (fun t => readReg t x.1 == readReg x.2 x.1 && (List.range 32).all fun k =>
          readReg t (BitVec.ofNat 8 k) == readReg x.2 (BitVec.ofNat 8 k)) = true)
      ∧ (offer (.regWrite 0 0) marked).fault = false
      ∧ (offer (.regWrite 0 0) { marked with fault := true }).fault = true := by decide +kernel

/-- BufferReadsReturnTheByte and BufferWritesStoreTheByte: the last byte of DBUF and the first one past it. -/
theorem test_witness_buffer : (offer (.bufRead 31) blank).pending = .bufRead 31 :: []
    ∧ (offer (.bufWrite 31 1) blank).pending = .bufWrite 31 1 :: []
    ∧ 31 < (offer (.bufRead 31) blank).nBuf ∧ (offer (.bufRead 32) blank).nBuf ≤ 32 := by decide

/-- BlockStoredByteByByteIsRead: the last block of DBUF. -/
theorem test_witness_block : ∃ (s : State) (a : Nat) (v : Word), a + 8 = s.nBuf ∧ s.pending = pseudoBwrq a v :=
  ⟨{ blank with pending := pseudoBwrq 24 5 }, 24, 5, rfl, rfl⟩

/-- EveryStepKeepsTheInvariant: a machine with an instance and a message. -/
theorem test_witness_invariant : ∃ s t : State, s.Inv ∧ step s = .next t ∧ s.ksv = true :=
  ⟨offer (.bufWrite 4 1) { ready true with dbuf := [(3, 7)] }, _,
    { size := by decide, canonical := rfl, inside := rfl, errKnown := by decide, noFault := rfl
      uninitialised := fun h => absurd h (by decide) }, rfl, rfl⟩

/-- ErrIsTheFirstFailingCode: a word and a state for each code. -/
theorem test_witness_codes :
    (∀ x ∈ ([(0x26, blank, 1), (0x01, { blank with mode := 2 }, 2), (0x25, blank, 3), (0x12, ready true, 0),
        (0x12, { ready true with len := 33 }, 4), (0x13, { ready true with len := 40 }, 5),
        (0x13, { ready false with len := 32 }, 0)] : List (Word × State × BitVec 4)),
      (offer (.regWrite 0x00#8 x.1) x.2.1).fault = false
        ∧ firstFailingCheck x.1 (offer (.regWrite 0x00#8 x.1) x.2.1) = x.2.2) := by decide +kernel

/-- NotInitialisedWithoutAnInstance: every command of the list, and one that is not on it. -/
theorem test_witness_no_instance : blank.ksv = false
    ∧ (∃ i : Instr, i ∈ [.enc, .dec, .encmsg, .decmsg, .crypt false, .crypt true])
    ∧ ∃ (i : Instr) (t : State), i ∉ [.enc, .dec, .encmsg, .decmsg, .crypt false, .crypt true]
      ∧ exec i blank = .next t := ⟨rfl, ⟨.enc, by decide⟩, .nop, _, by decide, rfl⟩

/-- UnsupportedModeAtInitOnly: CFB, CTS, and an error of that code. -/
theorem test_witness_mode : ({ blank with mode := 2#2 } : State).mode = 2#2 ∧ ({ blank with mode := 3#2 } : State).mode = 3#2
    ∧ answers (exec (.init true true) { blank with mode := 2 }) (fun t => t.err == 2) = true := by decide +kernel

/-- MalformedLengthIsRejected: LEN of 1 and of 33. -/
theorem test_witness_length :
    (ready true).ksv = true ∧ (1#64).toNat % 8 ≠ 0 ∧ ({ ready true with len := 33 } : State).len.toNat % 8 ≠ 0
      ∧ answers (exec .decmsg { ready true with len := 33 }) (fun t => t.err == 4) = true := by decide +kernel

/-- OverlongMessageIsRejected: LEN one block above N_BUF. -/
theorem test_witness_overrun :
    (let s : State := { ready true with len := 40 }
     s.ksv = true ∧ s.len.toNat % 8 = 0 ∧ s.nBuf < s.len.toNat)
      ∧ answers (exec .encmsg { ready true with len := 40 }) (fun t => t.err == 5) = true := by decide +kernel

/-- RaisingCommandChangesOnlyStatus: an error of each kind. -/
theorem test_witness_raising :
    answers (exec (.ksub 0) blank) (fun t => t.err != 0) = true
      ∧ answers (exec (.init true true) { blank with mode := 3 }) (fun t => t.err != 0) = true
      ∧ answers (exec .dec blank) (fun t => t.err != 0) = true
      ∧ answers (exec .encmsg { ready true with len := 7 }) (fun t => t.err != 0) = true
      ∧ answers (exec .decmsg { ready true with len := 40 }) (fun t => t.err != 0) = true := by decide +kernel

/-- FaultStopsCommandsUntilReset: a PERM whose table holds a 0, a CMD write and a reset while FAULT is set. -/
theorem test_witness_fault :
    permWith (⟨#v[0]⟩ : PermTable 64 1) blank = .error .tableFault ∧ ∃ (s t : State) (w : Word) (rest : List Transaction), s.fault = true
    ∧ s.pending = .regWrite 0x00#8 w :: rest ∧ step s = .next t
    ∧ (offer .reset s).fault = true ∧ (offer .reset s).nextIsReset = true :=
  ⟨rfl, offer (.regWrite 0x00#8 0x10) { marked with fault := true }, _, _, _, rfl, rfl, rfl, rfl, rfl⟩

/-- NoCommandRaisesTableFault: a table with an entry below its range and one with an entry above it. -/
theorem test_witness_table : (∃ p ∈ ([0] : List Nat), p < 1 ∨ 4 < p) ∧ (∃ p ∈ ([5] : List Nat), p < 1 ∨ 4 < p)
    ∧ ∃ t, exec (.perm 0) blank = .next t :=
  ⟨⟨0, by decide⟩, ⟨5, by decide⟩, exec_next _ _⟩

/-- InstanceChangesOnlyBySuccessfulInit: a step that runs no INIT, an INIT that fails, and one that succeeds. -/
theorem test_witness_instance :
    (∃ s t : State, step s = .next t ∧ s.nextIsReset = false ∧ ∀ kg ig, s.nextCommand ≠ some (.init kg ig))
      ∧ (offer (.regWrite 0 1) { ready true with mode := 2 }).nextIsReset = false
      ∧ answers (step (offer (.regWrite 0 1) { ready true with mode := 2 })) (fun t => t.err != 0) = true
      ∧ (offer (.regWrite 0 1) blank).nextCommand = some (.init false false)
      ∧ answers (step (offer (.regWrite 0 1) blank)) (fun t => t.err == 0) = true :=
  ⟨⟨offer (.bufRead 0) (ready true), _, rfl, rfl, nofun⟩, rfl, by decide +kernel⟩

/-- StagingRegistersAreReadOnlyByInit: a write to each of KEY, IV and MODE. -/
theorem test_witness_staging :
    (offer (.regWrite 0x02#8 5) (ready true)).pending = .regWrite 0x02#8 5 :: [] ∧ 0x02#8 ∈ [0x02#8, 0x03#8, 0x04#8]
      ∧ answers (step (offer (.regWrite 0x04#8 2) (ready true))) (fun t => t.mode == 2) = true := by decide +kernel

/-- CommandsWriteOnlyTheirRegisters and StagingRegistersAreReadOnlyByInit: NOP and PERM stand for the commands that
the clauses leave out, ENC under ECB for the last. -/
theorem test_witness_writes_only :
    (∃ t, exec .nop blank = .next t) ∧ (∀ kg ig, Instr.nop ≠ .init kg ig)
      ∧ Instr.nop ∉ [Instr.enc, .dec] ∧ Instr.nop ∉ [Instr.encmsg, .decmsg]
      ∧ Instr.nop ∈ [Instr.nop, .rstchain, .enc, .dec, .encmsg, .decmsg]
      ∧ Instr.perm 0 ∉ [Instr.rstchain, .enc, .dec, .encmsg, .decmsg]
      ∧ Instr.enc ∈ [Instr.enc, .dec, .encmsg, .decmsg] ∧ (ready false).amode = false
      ∧ ∃ t, exec .enc (ready false) = .next t :=
  ⟨⟨_, rfl⟩, nofun, by decide, by decide, by decide, by decide, by decide, rfl, exec_next _ _⟩

/-- UnusedOperandBitsAreIgnored: operands that differ in their unused bits alone. -/
theorem test_witness_unused :
    (0xFFFFFFFF00000009#64).extractLsb' 0 32 = marked.tin.extractLsb' 0 32
      ∧ (0xFFFF00000000000A#64).extractLsb' 0 48 = marked.taux.extractLsb' 0 48
      ∧ (0xFFFFFFFFFFFFFFC9#64).extractLsb' 0 6 = marked.tin.extractLsb' 0 6
      ∧ (0xFF00000000000009#64).extractLsb' 0 56 = marked.tin.extractLsb' 0 56
      ∧ (∃ t, exec .ffunc marked = .next t) ∧ (∃ t, exec .round marked = .next t)
      ∧ (∀ sel, ∃ t, exec (.sbox sel) marked = .next t) ∧ ∀ sel, ∃ t, exec (.perm sel) marked = .next t :=
  ⟨by decide, by decide, by decide, by decide, exec_next _ _, exec_next _ _, fun _ => exec_next _ _,
    fun _ => exec_next _ _⟩

/-- ScheduleIgnoresTheParityBits: the two keys of 95_test_vectors.md section 1.4. -/
theorem test_witness_parity : ∀ p, 1 ≤ p → p ≤ 64 → p % 8 ≠ 0 →
    posBit walkKey p = posBit (0x123556789ABDDEF0#64) p := by
  intro p h1 h2 h3
  have h : ∀ q : Fin 65, q.val % 8 ≠ 0 → posBit walkKey q.val = posBit (0x123556789ABDDEF0#64) q.val := by
    decide +kernel
  exact h ⟨p, by omega⟩ h3

/-- ConstantHalvesGiveEqualSubkeys: the four keys of 42_key_schedule.md R132, and INIT in both modes. -/
theorem test_witness_constant_halves :
    ([0x0101010101010101, 0xFEFEFEFEFEFEFEFE, 0x1F1F1F1F0E0E0E0E, 0xE0E0E0E0F1F1F1F1] : List Word).all (fun key =>
      ((keyHalves key).1 == 0 || (keyHalves key).1 == BitVec.allOnes 28)
        && ((keyHalves key).2 == 0 || (keyHalves key).2 == BitVec.allOnes 28)) = true
      ∧ blank.mode = 0#2 ∧ ({ blank with mode := 1#2 } : State).mode = 1#2 := by decide +kernel

/-- InitLatchesTheInstance: both modes, with and without a draw. -/
theorem test_witness_init : blank.mode = 0#2 ∧ ({ blank with mode := 1#2 } : State).mode = 1#2
    ∧ answers (exec (.init true false) blank) (fun t => t.drawCount == 1) = true := by decide +kernel

/-- InitDrawsTheKeyThenTheIv: no answer, one and two answers waiting, under ECB and under CBC; reset has none. -/
theorem test_witness_draws : State.reset.entropy = [] ∧ State.reset.mode = 0#2
    ∧ ∀ waiting ∈ ([[], [1], [1, 2]] : List (List Word)), ∀ m ∈ ([0, 1] : List (BitVec 2)),
      ({ blank with entropy := waiting, mode := m } : State).entropy = waiting
        ∧ ({ blank with entropy := waiting, mode := m } : State).mode = m := by
  exact ⟨rfl, rfl, fun _ _ _ _ => ⟨rfl, rfl⟩⟩

/-- EncEncryptsDin, DecDecryptsDin and CryptTransformsTin: an instance under ECB and one under CBC. -/
theorem test_witness_instances : (ready false).ksv = true ∧ (ready false).amode = false ∧ (ready true).ksv = true
    ∧ (ready true).amode = true ∧ (∃ t, exec (.crypt false) (ready true) = .next t)
    ∧ ∀ t : State, ∃ u, exec (.crypt true) { t with tin := t.tout } = .next u :=
  ⟨rfl, rfl, rfl, rfl, exec_next _ _, fun _ => exec_next _ _⟩

/-- EncmsgEncryptsTheMessage and DecmsgDecryptsTheMessage: an empty message and one that fills DBUF. -/
theorem test_witness_message : ∀ cbc : Bool,
    (ready cbc).ksv = true ∧ (ready cbc).len.toNat % 8 = 0 ∧ (ready cbc).len.toNat ≤ (ready cbc).nBuf
      ∧ (32#64).toNat % 8 = 0 ∧ (32#64).toNat ≤ ({ ready cbc with len := 32#64 } : State).nBuf := by decide +kernel

/-- PERM, SBOX and KSUB: the first and the last legal SEL, and the ones beside them. -/
theorem test_witness_selectors : 5 < (6#8).toNat ∧ (0#8).toNat = (0 : Fin 8).val ∧ (7#8).toNat = (7 : Fin 8).val
    ∧ 7 < (8#8).toNat ∧ (1#8).toNat = (0 : Fin 16).val + 1 ∧ (16#8).toNat = (15 : Fin 16).val + 1
    ∧ (0#8).toNat = 0 ∧ 16 < (17#8).toNat := by decide

/-- DecmsgUndoesEncmsg: one block, the receiver being the machine that encrypted. -/
theorem test_witness_round_trip : ∃ s t r : State, s.ksv = true ∧ s.len.toNat % 8 = 0 ∧ s.len.toNat ≤ s.nBuf
    ∧ exec .encmsg s = .next t ∧ r.ksv = true ∧ r.subkey = s.subkey ∧ r.amode = s.amode ∧ r.aiv = s.aiv
    ∧ r.len = s.len ∧ r.len.toNat ≤ r.nBuf ∧ 0 < s.len.toNat
    ∧ ∀ a, a < s.len.toNat → dbufByte r a = dbufByte t a :=
  ⟨{ ready true with len := 8 }, _, complete 0x12#8 (messageResult encryptBlock { ready true with len := 8 }), rfl, rfl, by decide, exec_encmsg rfl rfl (by decide), rfl, rfl, rfl, rfl, rfl,
    by decide, by decide, fun _ _ => rfl⟩

/-- BlockCommandsFollowTheCbcLaw: two blocks, encrypted and decrypted. -/
theorem test_witness_cbc : ∃ s r : State, s.fault = false ∧ s.ksv = true ∧ s.amode = true
    ∧ s.pending = blockTransactions .enc [1, 2] ∧ r = { s with pending := blockTransactions .dec [1, 2] } :=
  ⟨{ ready true with pending := blockTransactions .enc [1, 2] }, _, rfl, rfl, rfl, rfl, rfl⟩

/-- CbcErrorReachesTwoBlocks: the first of two blocks and the last. -/
theorem test_witness_cbc_error : ∀ i : Fin 2, (5#64) ≠ ([1#64, 2#64])[i] := by decide

/-- The four frames: every command of each completes, and one of each kind raises. -/
theorem test_witness_frames : (∀ i : Instr, ∀ s : State, ∃ t, exec i s = .next t)
    ∧ answers (exec .enc (ready false)) (fun t => t.err == 0) = true
    ∧ answers (exec .encmsg { ready false with len := 8 }) (fun t => t.err == 0) = true
    ∧ answers (exec .encmsg { blank with len := 8 }) (fun t => t.err != 0) = true
    ∧ ({ blank with mode := 0#2 } : State).mode ≠ 1#2 := by
  exact ⟨fun _ _ => exec_next _ _, by decide +kernel⟩

end Sys2Proof.Tests
end

section
/-! SUPPORT. What one step does, said once by cases, and from it that the cipher instance changes only by a successful
INIT or a reset (10_state.md R34). -/

namespace Sys2Proof.Machine

/-! ## The step, case by case -/

/-- The state in which the command of the word `w` runs: the transaction is taken from the host's list, the word is
in CMD (10_state.md R22). -/
def State.withCommand (s : State) (w : Word) (rest : List Transaction) : State :=
  { s with cmd := w, pending := rest, reply := .nothing }

/-- Everything a step can do: one case per transaction of the host, a write to CMD split by whether FAULT stops it and
whether the word encodes a command. -/
inductive Transition (s : State) : State → Prop
  | idle : s.pending = [] → Transition s (idle s)
  | reset {rest : List Transaction} : s.pending = .reset :: rest →
      Transition s (hostReset { s with pending := rest })
  | regRead {idx : Byte} {rest : List Transaction} : s.pending = .regRead idx :: rest →
      Transition s { s with pending := rest, reply := .word (readReg { s with pending := rest } idx) }
  | bufRead {a : Nat} {rest : List Transaction} : s.pending = .bufRead a :: rest →
      Transition s { s with pending := rest, reply := .byte (bufRead { s with pending := rest } a) }
  | bufWrite {a : Nat} {b : Byte} {rest : List Transaction} : s.pending = .bufWrite a b :: rest →
      Transition s { bufWrite a b { s with pending := rest } with reply := .nothing }
  | regWrite {idx : Byte} {v : Word} {rest : List Transaction} : idx ≠ idxCmd →
      s.pending = .regWrite idx v :: rest →
      Transition s { writeReg { s with pending := rest } idx v with reply := .nothing }
  | void {w : Word} {rest : List Transaction} : s.pending = .regWrite idxCmd w :: rest → s.fault = true →
      Transition s { s with pending := rest, reply := .nothing }
  | illegal {w : Word} {e : Reject} {rest : List Transaction} : s.pending = .regWrite idxCmd w :: rest →
      s.fault = false → decode w = .error e →
      Transition s (raise (opField w) (.err .illegalCmd) (s.withCommand w rest))
  | command {w : Word} {i : Instr} {rest : List Transaction} {t : State} :
      s.pending = .regWrite idxCmd w :: rest → s.fault = false → decode w = .ok i →
      exec i (s.withCommand w rest) = .next t → Transition s t

theorem step_nil {s : State} (hp : s.pending = []) : step s = .next (idle s) := by
  simp only [step, hp]

theorem step_cons {s : State} {x : Transaction} {rest : List Transaction} (hp : s.pending = x :: rest) :
    step s = transact x { s with pending := rest } := by
  simp only [step, hp]

/-- A write to an index other than CMD's. -/
theorem step_regWrite {s : State} {idx : Byte} {v : Word} {rest : List Transaction} (hi : idx ≠ idxCmd)
    (hp : s.pending = .regWrite idx v :: rest) :
    step s = .next { writeReg { s with pending := rest } idx v with reply := .nothing } :=
  (step_cons hp).trans (if_neg hi)

/-- A write to CMD while FAULT is 0 executes the word. -/
theorem step_cmd {s : State} {w : Word} {rest : List Transaction} (hp : s.pending = .regWrite idxCmd w :: rest)
    (hf : s.fault = false) : step s = execute w (s.withCommand w rest) := by
  rw [step_cons hp]
  simp [transact, idxCmd, writeCmd, hf, State.withCommand]

/-- A write to CMD while FAULT is 1 is ignored (60_exceptions.md R190). -/
theorem step_cmd_void {s : State} {w : Word} {rest : List Transaction}
    (hp : s.pending = .regWrite idxCmd w :: rest) (hf : s.fault = true) :
    step s = .next { s with pending := rest, reply := .nothing } := by
  rw [step_cons hp]
  simp [transact, idxCmd, writeCmd, hf]

theorem execute_ok {w : Word} {i : Instr} (hd : decode w = .ok i) (s : State) : execute w s = exec i s := by
  simp only [execute, hd]

theorem execute_error {w : Word} {e : Reject} (hd : decode w = .error e) (s : State) :
    execute w s = .next (raise (opField w) (.err .illegalCmd) s) := by
  simp only [execute, hd]

theorem transition_of_cmd {s t : State} {w : Word} {rest : List Transaction}
    (hp : s.pending = .regWrite idxCmd w :: rest) (h : step s = .next t) : Transition s t := by
  cases hf : s.fault with
  | true =>
    rw [step_cmd_void hp hf] at h
    cases h
    exact .void hp hf
  | false =>
    rw [step_cmd hp hf] at h
    cases hd : decode w with
    | ok i =>
      rw [execute_ok hd] at h
      exact .command hp hf hd h
    | error e =>
      rw [execute_error hd] at h
      cases h
      exact .illegal hp hf hd

theorem transition_of_step {s t : State} (h : step s = .next t) : Transition s t := by
  cases hp : s.pending with
  | nil =>
    rw [step_nil hp] at h
    cases h
    exact .idle hp
  | cons x rest =>
    cases x with
    | regWrite idx v =>
      by_cases hi : idx = idxCmd
      · subst hi
        exact transition_of_cmd hp h
      · rw [step_regWrite hi hp] at h
        cases h
        exact .regWrite hi hp
    | regRead idx =>
      rw [step_cons hp] at h
      cases h
      exact .regRead hp
    | bufRead a =>
      rw [step_cons hp] at h
      cases h
      exact .bufRead hp
    | bufWrite a b =>
      rw [step_cons hp] at h
      cases h
      exact .bufWrite hp
    | reset =>
      rw [step_cons hp] at h
      cases h
      exact .reset hp

/-! ## Which command the step runs -/

theorem nextCommand_of_cmd {s : State} {w : Word} {i : Instr} {rest : List Transaction}
    (hp : s.pending = .regWrite idxCmd w :: rest) (hf : s.fault = false) (hd : decode w = .ok i) :
    s.nextCommand = some i := by
  simp [State.nextCommand, hp, hf, hd]

theorem cmd_of_nextCommand {s : State} {i : Instr} (h : s.nextCommand = some i) :
    ∃ w rest, s.pending = .regWrite idxCmd w :: rest ∧ s.fault = false ∧ decode w = .ok i := by
  unfold State.nextCommand at h
  split at h
  · next idx w rest hp =>
    split at h
    · next hc =>
      obtain ⟨rfl, hf⟩ := hc
      split at h
      · next j hd =>
        cases h
        exact ⟨w, rest, hp, hf, hd⟩
      · cases h
    · cases h
  · cases h

/-- The step that runs the command `i` is `exec i`, from the state that has the word in CMD. -/
theorem step_of_nextCommand {s : State} {i : Instr} (h : s.nextCommand = some i) :
    ∃ w rest, step s = exec i (s.withCommand w rest) := by
  obtain ⟨w, rest, hp, hf, hd⟩ := cmd_of_nextCommand h
  exact ⟨w, rest, by rw [step_cmd hp hf, execute_ok hd]⟩

theorem nextIsReset_of_reset {s : State} {rest : List Transaction} (hp : s.pending = .reset :: rest) :
    s.nextIsReset = true := by
  simp only [State.nextIsReset, hp]

/-! ## The cipher instance -/

/-- The cipher instance with the flag that says whether there is one: the subkeys, KSV, AMODE and AIV
(10_state.md R34). -/
def State.cipherInstance (s : State) : Vector Subkey 16 × Bool × Bool × Word := (s.subkey, s.ksv, s.amode, s.aiv)

theorem cipherInstance_eq_iff {s t : State} : t.cipherInstance = s.cipherInstance ↔
    t.subkey = s.subkey ∧ t.ksv = s.ksv ∧ t.amode = s.amode ∧ t.aiv = s.aiv := by
  simp only [State.cipherInstance, Prod.mk.injEq]

@[simp] theorem raise_cipherInstance (op : Byte) (r : Raise) (s : State) :
    (raise op r s).cipherInstance = s.cipherInstance := by
  cases r <;> rfl

@[simp] theorem complete_cipherInstance (op : Byte) (s : State) :
    (complete op s).cipherInstance = s.cipherInstance := rfl

@[simp] theorem withCommand_cipherInstance (s : State) (w : Word) (rest : List Transaction) :
    (s.withCommand w rest).cipherInstance = s.cipherInstance := rfl

theorem writeReg_cipherInstance (s : State) (idx : Byte) (v : Word) :
    (writeReg s idx v).cipherInstance = s.cipherInstance := by
  unfold writeReg
  split <;> rfl

theorem bufWrite_cipherInstance (a : Nat) (b : Byte) (s : State) :
    (bufWrite a b s).cipherInstance = s.cipherInstance := by
  unfold bufWrite
  split <;> rfl

/-- No command but INIT writes the instance. -/
theorem Writes.cipherInstance {s u : State} {i : Instr} (h : Writes s i u) (hi : ∀ kg ig, i ≠ .init kg ig) :
    u.cipherInstance = s.cipherInstance := by
  cases h with
  | @init kg ig => exact absurd rfl (hi kg ig)
  | _ => rfl

/-- A command that is no INIT, or that raises, keeps the instance. -/
theorem exec_cipherInstance {s t : State} {i : Instr} (h : exec i s = .next t)
    (hi : (∀ kg ig, i ≠ .init kg ig) ∨ t.err ≠ 0) : t.cipherInstance = s.cipherInstance := by
  rcases exec_effects h with ⟨c, -, rfl⟩ | ⟨u, hu, rfl⟩
  · exact raise_cipherInstance _ _ _
  · rw [complete_cipherInstance]
    rcases hi with hi | he
    · exact hu.cipherInstance hi
    · exact absurd rfl he

/-- A step that is no reset, and that runs no INIT or one that fails, keeps the instance. -/
theorem step_cipherInstance {s t : State} (h : step s = .next t) (hr : s.nextIsReset = false)
    (hi : (∀ kg ig, s.nextCommand ≠ some (.init kg ig)) ∨ t.err ≠ 0) :
    t.cipherInstance = s.cipherInstance := by
  cases transition_of_step h with
  | reset hp => rw [nextIsReset_of_reset hp] at hr; cases hr
  | command hp hf hd he =>
    refine (exec_cipherInstance he (hi.imp_left fun hn kg ig hj => hn kg ig ?_)).trans
      (withCommand_cipherInstance _ _ _)
    rw [nextCommand_of_cmd hp hf hd, hj]
  | regWrite _ hp => exact writeReg_cipherInstance _ _ _
  | bufWrite hp => exact bufWrite_cipherInstance _ _ _
  | illegal hp hf hd => exact raise_cipherInstance _ _ _
  | idle hp => rfl
  | regRead hp => rfl
  | bufRead hp => rfl
  | void hp hf => rfl

/-! ## A successful INIT -/

theorem ErrCode.code_ne_zero (c : ErrCode) : c.code ≠ 0 := by
  cases c <;> decide

/-- A command that leaves ERR = 0 has made its writes. -/
theorem writes_of_err_zero {s t : State} {i : Instr} (h : exec i s = .next t) (he : t.err = 0) :
    ∃ u, Writes s i u ∧ t = complete i.opcode u := by
  rcases exec_effects h with ⟨c, -, rfl⟩ | hw
  · exact absurd he c.code_ne_zero
  · exact hw

/-- AMODE takes bit 0 of MODE, which for the two modes INIT accepts says whether MODE is CBC (10_state.md R26). -/
theorem mode_bit_iff_cbc {m : BitVec 2} (h : modeUnsupported m = false) : m.getLsbD 0 = true ↔ m = 1#2 := by
  revert m
  decide

/-- An INIT that succeeds replaces the whole instance by what KEY, MODE and IV hold after it (45_control.md R172). -/
theorem exec_init_latches {s t : State} {kg ig : Bool} (h : exec (.init kg ig) s = .next t) (he : t.err = 0) :
    t.subkey = keySchedule t.key ∧ t.ksv = true ∧ (t.amode = true ↔ s.mode = 1#2) ∧ t.aiv = t.iv := by
  obtain ⟨u, hu, rfl⟩ := writes_of_err_zero h he
  cases hu with
  | init hm =>
    obtain ⟨k, v, es, n, hu, -⟩ := initResult_frame kg ig s
    rw [hu]
    exact ⟨rfl, rfl, mode_bit_iff_cbc hm, rfl⟩

/-- Settles O23: by cases on the step, only `exec` of INIT reaches the instance, and `exec` of INIT either raises, which
keeps it, or latches all of it. -/
theorem instanceChangesOnlyBySuccessfulInit : Obligations.InstanceChangesOnlyBySuccessfulInit := by
  refine ⟨fun s t h hr hi => cipherInstance_eq_iff.mp (step_cipherInstance h hr hi), fun s t kg ig h hc he => ?_⟩
  obtain ⟨w, rest, hs⟩ := step_of_nextCommand hc
  exact exec_init_latches (s := s.withCommand w rest) (hs.symm.trans h) he

end Sys2Proof.Machine
end

section
/-! SUPPORT. The host port (20_memory.md R62 to R65): what a register read and write answer at each index, and what a
DBUF transaction returns and stores. -/

namespace Sys2Proof.Machine

/-! ## Register reads -/

/-- A register read returns `readReg` and keeps the registers. -/
theorem step_regRead {s : State} {idx : Byte} {rest : List Transaction} (hp : s.pending = .regRead idx :: rest) :
    step s = .next { s with pending := rest, reply := .word (readReg s idx) } :=
  step_cons hp

/-- Concatenation puts the left part's number above the right part's `m` bits (00_scope.md R10). -/
theorem toNat_append_eq_mul_add {n m : Nat} (x : BitVec n) (y : BitVec m) :
    (x ++ y).toNat = x.toNat * 2 ^ m + y.toNat := by
  rw [BitVec.toNat_append, ← Nat.shiftLeft_add_eq_or_of_lt y.isLt, Nat.shiftLeft_eq]

/-- The fields of STATUS by their places (10_state.md R23). -/
theorem statusHalf_toNat (s : State) : (statusHalf s).toNat =
    256 * s.lastop.toNat + 128 * s.fault.toNat + 32 * s.amode.toNat + 16 * s.ksv.toNat + s.err.toNat := by
  simp only [statusHalf, toNat_append_eq_mul_add, BitVec.toNat_ofBool, BitVec.toNat_ofNat]
  omega

theorem readReg_status_toNat (s : State) : (readReg s idxStatus).toNat = (statusHalf s).toNat :=
  BitVec.toNat_setWidth_of_le (by decide)

theorem readReg_mode_toNat (s : State) : (readReg s idxMode).toNat = s.mode.toNat :=
  BitVec.toNat_setWidth_of_le (by decide)

/-- SUBKEY[k + 1] stands at place `k`. -/
theorem subkeyAt_succ (s : State) (k : Fin 16) : subkeyAt s (k.val + 1) = s.subkey[k] := by
  simp [subkeyAt]

/-- From 0x0D on the map holds the subkeys and nothing else. -/
theorem readReg_of_above_aiv (s : State) {idx : Byte} (h : 0x0D ≤ idx.toNat) :
    readReg s idx = if 0x10 ≤ idx.toNat ∧ idx.toNat ≤ 0x1F then (subkeyAt s (idx.toNat - 0x0F)).setWidth 64
      else 0 := by
  unfold readReg
  split
  case h_14 => rfl
  all_goals omega

theorem readReg_subkey_toNat (s : State) {idx : Byte} {k : Fin 16} (h : idx.toNat = 0x10 + k.val) :
    (readReg s idx).toNat = (s.subkey[k]).toNat := by
  rw [readReg_of_above_aiv s (by omega), if_pos (by omega), show idx.toNat - 0x0F = k.val + 1 by omega,
    subkeyAt_succ, BitVec.toNat_setWidth_of_le (by decide)]

theorem readReg_reserved (s : State) {idx : Byte}
    (h : (0x0D ≤ idx.toNat ∧ idx.toNat ≤ 0x0F) ∨ 0x20 ≤ idx.toNat) : readReg s idx = 0 := by
  rw [readReg_of_above_aiv s (by omega), if_neg (by omega)]

/-- Settles O8: the step answers `readReg`, whose value the rules above give at each index. -/
theorem registerReadsReturnTheirRegister : Obligations.RegisterReadsReturnTheirRegister := by
  intro s idx rest hp
  refine ⟨readReg s idx, step_regRead hp, ?cmd, ?status, ?key, ?iv, ?mode, ?chain, ?din, ?dout, ?len, ?tin, ?taux,
    ?tout, ?aiv, fun k hk => readReg_subkey_toNat s hk, readReg_reserved s⟩
  case status => rintro rfl; exact (readReg_status_toNat s).trans (statusHalf_toNat s)
  case mode => rintro rfl; exact readReg_mode_toNat s
  all_goals rintro rfl; rfl

/-! ## Register writes -/

/-- A write to a read-only or reserved index changes nothing (20_memory.md R63). -/
theorem writeReg_of_not_writable (s : State) {idx : Byte} (v : Word)
    (h : idx.toNat ∉ [0x02, 0x03, 0x04, 0x05, 0x06, 0x08, 0x09, 0x0A]) : writeReg s idx v = s := by
  unfold writeReg
  split
  case h_9 => rfl
  all_goals next hi => exact absurd (by simp [hi]) h

/-- Settles O9: a write to CMD is `step_cmd` or, under FAULT, `step_cmd_void`; a write to any other index is
`writeReg`, which stores one register or none. -/
theorem registerWritesStoreTheirRegister : Obligations.RegisterWritesStoreTheirRegister := by
  intro s v rest idx hp u
  refine ⟨?run, ?void, ?key, ?iv, ?mode, ?chain, ?din, ?len, ?tin, ?taux, ?other⟩
  case run => rintro rfl hf; exact step_cmd hp hf
  case void => rintro rfl hf; exact step_cmd_void hp hf
  case other =>
    intro h
    have hcmd : idx ≠ idxCmd := by rintro rfl; exact h List.mem_cons_self
    rw [step_regWrite hcmd hp, writeReg_of_not_writable _ v fun hw => h (List.mem_cons_of_mem _ hw)]
  all_goals rintro rfl; exact step_regWrite (by decide) hp

/-! ## DBUF -/

theorem bufRead_inside {s : State} {a : Nat} (h : a < s.nBuf) : bufRead s a = dbufByte s a := if_pos h

theorem bufRead_outside {s : State} {a : Nat} (h : s.nBuf ≤ a) : bufRead s a = 0 := if_neg (Nat.not_lt.mpr h)

/-- A DBUF read returns `bufRead` and keeps the state. -/
theorem step_bufRead {s : State} {a : Nat} {rest : List Transaction} (hp : s.pending = .bufRead a :: rest) :
    step s = .next { s with pending := rest, reply := .byte (bufRead s a) } :=
  step_cons hp

/-- Settles O10: the step answers `bufRead`, on either side of N_BUF. -/
theorem bufferReadsReturnTheByte : Obligations.BufferReadsReturnTheByte := by
  intro s a rest hp
  refine ⟨fun h => ?_, fun h => ?_⟩
  · rw [step_bufRead hp, bufRead_inside h]
  · rw [step_bufRead hp, bufRead_outside h]

theorem bufWrite_inside {s : State} {a : Nat} (b : Byte) (h : a < s.nBuf) :
    bufWrite a b s = { s with dbuf := s.dbuf.write a b } := if_pos h

theorem bufWrite_outside {s : State} {a : Nat} (b : Byte) (h : s.nBuf ≤ a) : bufWrite a b s = s :=
  if_neg (Nat.not_lt.mpr h)

/-- A DBUF write below N_BUF stores its byte. -/
theorem step_bufWrite_inside {s : State} {a : Nat} {b : Byte} {rest : List Transaction}
    (hp : s.pending = .bufWrite a b :: rest) (h : a < s.nBuf) :
    step s = .next { s with pending := rest, reply := .nothing, dbuf := s.dbuf.write a b } := by
  rw [step_cons hp, transact, bufWrite_inside (s := { s with pending := rest }) b h]

/-- A DBUF write from N_BUF on stores nothing. -/
theorem step_bufWrite_outside {s : State} {a : Nat} {b : Byte} {rest : List Transaction}
    (hp : s.pending = .bufWrite a b :: rest) (h : s.nBuf ≤ a) :
    step s = .next { s with pending := rest, reply := .nothing } := by
  rw [step_cons hp, transact, bufWrite_outside (s := { s with pending := rest }) b h]

/-- Settles O11: below N_BUF the step is one `Memory.write`, read back by the laws of `byteIn`; from N_BUF on DBUF
stays whole. -/
theorem bufferWritesStoreTheByte : Obligations.BufferWritesStoreTheByte := by
  intro s a b rest hp
  rcases Nat.lt_or_ge a s.nBuf with h | h
  · exact ⟨_, step_bufWrite_inside hp h, rfl,
      fun _ => ⟨byteIn_write_same _ _ _ _, fun x hx => byteIn_write_other _ _ _ hx⟩,
      fun h' => absurd h (Nat.not_lt.mpr h')⟩
  · exact ⟨_, step_bufWrite_outside hp h, rfl, fun h' => absurd h' (Nat.not_lt.mpr h), fun _ => rfl⟩

end Sys2Proof.Machine
end

section
/-! SUPPORT. The command word (30_encoding.md R81 to R84): a word decodes to the well-formed command whose fields it
holds, and `legal` says that there is one. -/

namespace Sys2Proof

/-- Each field of the word is the command's, and the reserved bits are 0 (30_encoding.md R81). -/
def HasFieldsOf (w : Word) (i : Instr) : Prop :=
  rsvField w = 0#46 ∧ opField w = i.opcode ∧ selField w = i.sel ∧ f0Field w = i.f0 ∧ f1Field w = i.f1

/-- A word that holds a well-formed command's fields decodes to it. -/
theorem decode_of_hasFieldsOf {w : Word} {i : Instr} (hwf : i.wf = true) (h : HasFieldsOf w i) :
    decode w = .ok i := by
  obtain ⟨hr, hop, hs, h0, h1⟩ := h
  rw [decode, if_neg (not_not.mpr hr), hop]
  cases i with
  | init kg ig => exact decodeInit_ok.mpr ⟨hs, by rw [h0, h1]; rfl⟩
  | crypt dir => exact decodeCrypt_ok.mpr ⟨hs, h1, by rw [h0]; rfl⟩
  | perm sel | sbox sel | ksub sel => exact decodeSelected_ok.mpr ⟨hs ▸ hwf, h0, h1, by rw [hs]; rfl⟩
  | _ => exact decodePlain_ok.mpr ⟨hs, h0, h1, rfl⟩

theorem decode_eq_ok_iff {w : Word} {i : Instr} : decode w = .ok i ↔ i.wf = true ∧ HasFieldsOf w i :=
  ⟨decode_fields, fun ⟨hwf, h⟩ => decode_of_hasFieldsOf hwf h⟩

/-! ## `legal`: which words hold a command's fields -/

/-- The conditions of 30_encoding.md R84, spelled as the laws of `decode` spell them. -/
theorem legal_iff {w : Word} : legal w = true ↔
    rsvField w = 0#46
      ∧ opField w ∈ [0x00#8, 0x01#8, 0x02#8, 0x10#8, 0x11#8, 0x12#8, 0x13#8, 0x20#8, 0x21#8, 0x22#8, 0x23#8, 0x24#8,
        0x25#8]
      ∧ (if opField w = 0x20#8 then permSelLegal (selField w) = true
          else if opField w = 0x21#8 then sboxSelLegal (selField w) = true
          else if opField w = 0x24#8 then ksubSelLegal (selField w) = true
          else selField w = 0#8)
      ∧ (f0Field w = false ∨ opField w = 0x01#8 ∨ opField w = 0x25#8)
      ∧ (f1Field w = false ∨ opField w = 0x01#8) := by
  simp [legal, f0Field, f1Field, BitVec.toNat_eq, permSelLegal, sboxSelLegal, ksubSelLegal, and_assoc]

/-- A word that holds a well-formed command's fields meets R84. -/
theorem legal_of_hasFieldsOf {w : Word} {i : Instr} (hwf : i.wf = true) (h : HasFieldsOf w i) : legal w = true := by
  obtain ⟨hr, hop, hs, h0, h1⟩ := h
  rw [legal_iff, hr, hop, hs, h0, h1]
  cases i with
  | perm sel | sbox sel | ksub sel => simpa [Instr.opcode, Instr.sel, Instr.f0, Instr.f1, Instr.wf] using hwf
  | _ => simp [Instr.opcode, Instr.sel, Instr.f0, Instr.f1]

/-- A word that meets R84 holds the fields of a well-formed command: the one its OP names, with its SEL and flags. -/
theorem exists_hasFieldsOf_of_legal {w : Word} (h : legal w = true) : ∃ i : Instr, i.wf = true ∧ HasFieldsOf w i := by
  obtain ⟨hr, hop, hs, h0, h1⟩ := legal_iff.mp h
  simp only [List.mem_cons, List.not_mem_nil, or_false] at hop
  rcases hop with e | e | e | e | e | e | e | e | e | e | e | e | e <;>
    simp only [e, BitVec.reduceEq, reduceIte, or_false, or_self, or_true] at hs h0 h1
  · exact ⟨.nop, rfl, hr, e, hs, h0, h1⟩
  · exact ⟨.init (f0Field w) (f1Field w), rfl, hr, e, hs, rfl, rfl⟩
  · exact ⟨.rstchain, rfl, hr, e, hs, h0, h1⟩
  · exact ⟨.enc, rfl, hr, e, hs, h0, h1⟩
  · exact ⟨.dec, rfl, hr, e, hs, h0, h1⟩
  · exact ⟨.encmsg, rfl, hr, e, hs, h0, h1⟩
  · exact ⟨.decmsg, rfl, hr, e, hs, h0, h1⟩
  · exact ⟨.perm (selField w), hs, hr, e, rfl, h0, h1⟩
  · exact ⟨.sbox (selField w), hs, hr, e, rfl, h0, h1⟩
  · exact ⟨.ffunc, rfl, hr, e, hs, h0, h1⟩
  · exact ⟨.round, rfl, hr, e, hs, h0, h1⟩
  · exact ⟨.ksub (selField w), hs, hr, e, rfl, h0, h1⟩
  · exact ⟨.crypt (f0Field w), rfl, hr, e, hs, rfl, h1⟩

/-- R84 by way of the fields: neither side is made of the other. -/
theorem legal_iff_decodes (w : Word) : legal w = true ↔ ∃ i, decode w = .ok i := by
  simp only [decode_eq_ok_iff]
  exact ⟨exists_hasFieldsOf_of_legal, fun ⟨_, hwf, hi⟩ => legal_of_hasFieldsOf hwf hi⟩

theorem exists_reject_of_not_legal {w : Word} (h : legal w = false) : ∃ e, decode w = .error e := by
  cases hd : decode w with
  | error e => exact ⟨e, rfl⟩
  | ok i => exact absurd ((legal_iff_decodes w).mpr ⟨i, hd⟩) (Bool.eq_false_iff.mp h)

end Sys2Proof

namespace Sys2Proof.Machine

/-- Settles O3: a word meets R84 exactly when it holds a well-formed command's fields, which is when it decodes; and
`execute` of a word that decodes to none is one `raise`. -/
theorem illegalWordRaisesIllegalCmd : Obligations.IllegalWordRaisesIllegalCmd := by
  refine ⟨legal_iff_decodes, fun s w rest hp hf hl => ?_⟩
  obtain ⟨e, hd⟩ := exists_reject_of_not_legal hl
  rw [step_cmd hp hf, execute_error hd]
  rfl

end Sys2Proof.Machine
end

section
/-! SUPPORT. The permuter (40_permutation.md): IP and its inverse undo each other (R104), and no table of the spec makes
a command raise TableFault (R101). -/

namespace Sys2Proof.Machine

/-! ## Tables that undo each other -/

/-- A value is known from its bits at the positions 1 to `w` (00_scope.md R9). -/
theorem eq_of_posBit_eq {w : Nat} {x y : BitVec w} (h : ∀ k < w, posBit x (k + 1) = posBit y (k + 1)) : x = y := by
  refine BitVec.eq_of_getLsbD_eq fun i hi => ?_
  have hk := h (w - 1 - i) (by omega)
  rwa [posBit, posBit, show w - (w - 1 - i + 1) = i by omega] at hk

theorem PermTable.inRange_iff {w n : Nat} {t : PermTable w n} :
    t.inRange = true ↔ ∀ p ∈ t.entries.toList, 1 ≤ p ∧ p ≤ w := by
  simp only [PermTable.inRange, List.all_eq_true, Bool.and_eq_true, decide_eq_true_eq]

/-- The entries of a sound table by their places. -/
theorem PermTable.getD_of_inRange {w n : Nat} {t : PermTable w n} (ht : t.inRange = true) {k : Nat} (hk : k < n) :
    1 ≤ t.entries.toList.getD k 0 ∧ t.entries.toList.getD k 0 ≤ w := by
  have hlen : k < t.entries.toList.length := by rwa [Vector.length_toList]
  rw [List.getD_eq_getElem _ _ hlen]
  exact PermTable.inRange_iff.mp ht _ (List.getElem_mem hlen)

/-- The table `u` undoes the table `t` where `t` has, at the place that each entry of `u` names, the place of that entry
(40_permutation.md R104). -/
theorem permute_permute_of_entries {w n : Nat} {t : PermTable w n} {u : PermTable n w} (hu : u.inRange = true)
    (h : ∀ k < w, t.entries.toList.getD (u.entries.toList.getD k 0 - 1) 0 = k + 1) (x : BitVec w) :
    permute u (permute t x) = x := by
  refine eq_of_posBit_eq fun k hk => ?_
  obtain ⟨hpos, hle⟩ := PermTable.getD_of_inRange hu hk
  calc posBit (permute u (permute t x)) (k + 1)
      = posBit (permute t x) (u.entries.toList.getD k 0 - 1 + 1) := by
        rw [permute_posBit u _ k hk, Nat.sub_add_cancel hpos]
    _ = posBit x (k + 1) := by rw [permute_posBit t x _ (by omega), h k hk]

theorem permute_tableIPInv_tableIP (x : Word) : permute tableIPInv (permute tableIP x) = x :=
  permute_permute_of_entries tableIPInv_inRange (by decide +kernel) x

theorem permute_tableIP_tableIPInv (x : Word) : permute tableIP (permute tableIPInv x) = x :=
  permute_permute_of_entries tableIP_inRange (by decide +kernel) x

/-- Settles O27: the entries of each table name the places of the other's. -/
theorem ipAndIpInverseUndoEachOther : Obligations.IpAndIpInverseUndoEachOther :=
  fun x => ⟨permute_tableIPInv_tableIP x, permute_tableIP_tableIPInv x⟩

/-! ## Table faults -/

/-- PERM's lookup in a table with an entry out of range (40_permutation.md R101). -/
theorem permWith_of_out_of_range {w n : Nat} {t : PermTable w n} (s : State)
    (h : ∃ p ∈ t.entries.toList, p < 1 ∨ w < p) : permWith t s = .error .tableFault := by
  obtain ⟨p, hp, hout⟩ := h
  have ht : ¬ t.inRange = true := fun hin => by
    have := PermTable.inRange_iff.mp hin p hp
    omega
  rw [permWith_eq, if_neg ht]

theorem Writes.fault {s u : State} {i : Instr} (h : Writes s i u) : u.fault = s.fault := by
  cases h with
  | @init kg ig =>
    obtain ⟨k, v, es, n, hu, -⟩ := initResult_frame kg ig s
    rw [hu]
  | _ => rfl

/-- A command raises no other than the recoverable errors, so it keeps FAULT. -/
theorem exec_fault {s t : State} {i : Instr} (h : exec i s = .next t) : t.fault = s.fault := by
  rcases exec_effects h with ⟨c, -, rfl⟩ | ⟨u, hu, rfl⟩
  · exact raise_err_fault _ _ _
  · exact (complete_fault _ _).trans hu.fault

/-- Settles O22: the table check raises on an entry out of range, the spec's tables pass it, and so FAULT is kept. -/
theorem noCommandRaisesTableFault : Obligations.NoCommandRaisesTableFault :=
  ⟨fun _ _ _ s h => permWith_of_out_of_range s h, PermTable.inRange_iff.mp tableIP_inRange,
    PermTable.inRange_iff.mp tableIPInv_inRange, PermTable.inRange_iff.mp tableE_inRange,
    PermTable.inRange_iff.mp tableP_inRange, PermTable.inRange_iff.mp tablePC1_inRange,
    PermTable.inRange_iff.mp tablePC2_inRange, fun _ _ _ h => exec_fault h⟩

end Sys2Proof.Machine
end

section
/-! SUPPORT. The key schedule (42_key_schedule.md): PC-1 reads every position but the multiples of 8 (R126, R131), the
shifts of a half add up (R127, R129), each subkey in closed form, and the keys whose halves no shift changes (R132). -/

namespace Sys2Proof.Machine

/-! ## What PC-1 reads -/

/-- A table's result fixes the source's bits at the positions the table names, and depends on no others
(40_permutation.md R100). -/
theorem permute_eq_iff {w n : Nat} {t : PermTable w n} {x y : BitVec w} :
    permute t x = permute t y ↔ ∀ p ∈ t.entries.toList, posBit x p = posBit y p := by
  have hlen : t.entries.toList.length = n := Vector.length_toList
  constructor
  · intro h p hp
    obtain ⟨k, hk, rfl⟩ := List.mem_iff_getElem.mp hp
    rw [← List.getD_eq_getElem _ 0 hk, ← permute_posBit t x k (hlen ▸ hk), ← permute_posBit t y k (hlen ▸ hk), h]
  · intro h
    refine eq_of_posBit_eq fun k hk => ?_
    have hk' : k < t.entries.toList.length := hlen.symm ▸ hk
    rw [permute_posBit t x k hk, permute_posBit t y k hk, List.getD_eq_getElem _ 0 hk']
    exact h _ (List.getElem_mem hk')

/-- The entries of PC-1 are the DES positions that are no multiple of 8 (42_key_schedule.md R126). -/
theorem mem_tablePC1_entries {p : Nat} : p ∈ tablePC1.entries.toList ↔ 1 ≤ p ∧ p ≤ 64 ∧ p % 8 ≠ 0 := by
  constructor
  · have h : ∀ q ∈ tablePC1.entries.toList, 1 ≤ q ∧ q ≤ 64 ∧ q % 8 ≠ 0 := by decide +kernel
    exact h p
  · rintro ⟨h1, h64, h8⟩
    have h : ∀ q < 65, 1 ≤ q → q % 8 ≠ 0 → q ∈ tablePC1.entries.toList := by decide +kernel
    exact h p (by omega) h1 h8

theorem keyHalves_append (key : Word) : (keyHalves key).1 ++ (keyHalves key).2 = permute tablePC1 key :=
  BitVec.extractLsb'_append_extractLsb'

/-- Two keys have the same halves where they agree outside the discarded positions, and only there. -/
theorem keyHalves_eq_iff {k k' : Word} :
    keyHalves k = keyHalves k' ↔ ∀ p, 1 ≤ p → p ≤ 64 → p % 8 ≠ 0 → posBit k p = posBit k' p := by
  calc keyHalves k = keyHalves k'
      ↔ permute tablePC1 k = permute tablePC1 k' :=
        ⟨fun h => by rw [← keyHalves_append, h, keyHalves_append], fun h => by rw [keyHalves, h, keyHalves]⟩
    _ ↔ ∀ p, 1 ≤ p → p ≤ 64 → p % 8 ≠ 0 → posBit k p = posBit k' p := by
        simp only [permute_eq_iff, mem_tablePC1_entries, and_imp]

/-- The schedule reads the key through its two halves only (42_key_schedule.md R128). -/
theorem keySchedule_congr {k k' : Word} (h : keyHalves k = keyHalves k') : keySchedule k = keySchedule k' := by
  simp only [keySchedule, h]

/-- Settles O29: PC-1 reads no multiple of 8, so the two keys have the same halves. -/
theorem scheduleIgnoresTheParityBits : Obligations.ScheduleIgnoresTheParityBits :=
  fun _ _ h => keySchedule_congr (keyHalves_eq_iff.mpr h)

/-! ## The shifts of one half -/

/-- A shift moves each bit up by the count, around the half's 28 places (42_key_schedule.md R129). -/
theorem rotl28_getLsbD (v : KeyHalf) (n : Nat) {i : Nat} (hi : i < 28) :
    (rotl28 v n).getLsbD i = v.getLsbD ((i + (28 - n % 28)) % 28) := by
  rw [rotl28, BitVec.getLsbD_rotateLeft]
  by_cases h : i < n % 28
  · rw [decide_eq_true h, cond_true, show (i + (28 - n % 28)) % 28 = 28 - n % 28 + i by omega]
  · rw [decide_eq_false h, cond_false, decide_eq_true hi, Bool.true_and,
      show (i + (28 - n % 28)) % 28 = i - n % 28 by omega]

/-- Shift counts add up. -/
theorem rotl28_rotl28 (v : KeyHalf) (a b : Nat) : rotl28 (rotl28 v a) b = rotl28 v (a + b) := by
  refine BitVec.eq_of_getLsbD_eq fun i hi => ?_
  rw [rotl28_getLsbD _ b hi, rotl28_getLsbD _ a (Nat.mod_lt _ (by decide)), rotl28_getLsbD _ (a + b) hi]
  congr 1
  omega

/-- Whole turns of a half give it back. -/
theorem rotl28_of_mod_eq_zero (v : KeyHalf) {n : Nat} (h : n % 28 = 0) : rotl28 v n = v := by
  refine BitVec.eq_of_getLsbD_eq fun i hi => ?_
  rw [rotl28_getLsbD v n hi, h, Nat.sub_zero, Nat.add_mod_right, Nat.mod_eq_of_lt hi]

/-- Shifting a half round by round is one shift by the sum of the counts. -/
theorem foldl_rotl28 (ns : List Nat) (v : KeyHalf) : ns.foldl rotl28 v = rotl28 v ns.sum := by
  induction ns generalizing v with
  | nil => exact (rotl28_of_mod_eq_zero v rfl).symm
  | cons n ns ih => rw [List.foldl_cons, ih, rotl28_rotl28, List.sum_cons]

theorem shifts_sum : shifts.sum = 28 := rfl

/-- Settles O30: the counts are read off the table, and add up to one whole turn of a half. -/
theorem shiftCountsBringTheHalvesBack : Obligations.ShiftCountsBringTheHalvesBack := by
  refine ⟨rfl, fun i h1 h16 => ?_, shifts_sum, fun c => ?_⟩
  · interval_cases i <;> rfl
  · rw [foldl_rotl28, shifts_sum]
    exact rotl28_of_mod_eq_zero c rfl

/-- A shift by `n` puts the top `n` bits of the half below its other bits (42_key_schedule.md R129). -/
theorem rotl28_eq_append (v : KeyHalf) {m n : Nat} (h : m + n = 28) :
    rotl28 v n = (v.extractLsb' 0 m ++ v.extractLsb' m n).cast h := by
  refine BitVec.eq_of_getLsbD_eq fun i hi => ?_
  rw [rotl28_getLsbD v n hi, BitVec.getLsbD_cast, BitVec.getLsbD_append]
  split
  next hin =>
    rw [BitVec.getLsbD_extractLsb', decide_eq_true hin, Bool.true_and]
    congr 1
    omega
  next hin =>
    rw [BitVec.getLsbD_extractLsb', decide_eq_true (by omega), Bool.true_and]
    congr 1
    omega

/-! ## Each subkey from the halves C0 and D0 -/

/-- Round `i`'s subkey is PC-2 of the two halves, each shifted on its own by the counts up to that round
(42_key_schedule.md R128, R129). -/
theorem scheduleRounds_getElem (ns : List Nat) (c d : KeyHalf) (i : Nat) (h : i < (scheduleRounds ns c d).length) :
    (scheduleRounds ns c d)[i] =
      permute tablePC2 ((ns.take (i + 1)).foldl rotl28 c ++ (ns.take (i + 1)).foldl rotl28 d) := by
  induction ns generalizing c d i with
  | nil => exact absurd h (Nat.not_lt_zero i)
  | cons n ns ih =>
    cases i with
    | zero => rfl
    | succ i => exact ih (rotl28 c n) (rotl28 d n) i (Nat.lt_of_succ_lt_succ h)

theorem keySchedule_getElem (key : Word) (i : Fin 16) :
    (keySchedule key)[i] = permute tablePC2 ((shifts.take (i.val + 1)).foldl rotl28 (keyHalves key).1
      ++ (shifts.take (i.val + 1)).foldl rotl28 (keyHalves key).2) :=
  scheduleRounds_getElem shifts _ _ i.val _

/-- Settles O31: both shifts are cases of the general one, and the rounds carry each half along by itself. -/
theorem halvesAreShiftedSeparately : Obligations.HalvesAreShiftedSeparately :=
  ⟨fun v => ⟨rotl28_eq_append v (m := 27) rfl, rotl28_eq_append v (m := 26) rfl⟩,
    keySchedule_getElem⟩

/-! ## Keys with constant halves (42_key_schedule.md R132) -/

/-- All 28 bits of the half are equal. -/
def ConstantHalf (c : KeyHalf) : Prop := c = 0 ∨ c = BitVec.allOnes 28

/-- No shift changes a constant half. -/
theorem ConstantHalf.rotl28_eq {c : KeyHalf} (hc : ConstantHalf c) (n : Nat) : rotl28 c n = c := by
  refine BitVec.eq_of_getLsbD_eq fun i hi => ?_
  have hmod : (i + (28 - n % 28)) % 28 < 28 := Nat.mod_lt _ (by decide)
  rw [rotl28_getLsbD c n hi]
  obtain rfl | rfl := hc
  · simp
  · rw [BitVec.getLsbD_allOnes, BitVec.getLsbD_allOnes, decide_eq_true hmod, decide_eq_true hi]

theorem ConstantHalf.foldl_rotl28_eq {c : KeyHalf} (hc : ConstantHalf c) (ns : List Nat) : ns.foldl rotl28 c = c := by
  rw [foldl_rotl28, hc.rotl28_eq]

/-- With constant halves every round applies PC-2 to C0 and D0 themselves. -/
theorem keySchedule_getElem_of_constant {key : Word} (hc : ConstantHalf (keyHalves key).1)
    (hd : ConstantHalf (keyHalves key).2) (i : Fin 16) :
    (keySchedule key)[i] = permute tablePC2 ((keyHalves key).1 ++ (keyHalves key).2) := by
  rw [keySchedule_getElem, hc.foldl_rotl28_eq, hd.foldl_rotl28_eq]

/-- The four keys R132 names. -/
def constantKeys : List Word :=
  [0x0101010101010101, 0xFEFEFEFEFEFEFEFE, 0x1F1F1F1F0E0E0E0E, 0xE0E0E0E0F1F1F1F1]

/-- The four keys have the four pairs of constant halves, one each. -/
theorem map_keyHalves_constantKeys : constantKeys.map keyHalves =
    [(0, 0), (BitVec.allOnes 28, BitVec.allOnes 28), (0, BitVec.allOnes 28), (BitVec.allOnes 28, 0)] := by
  decide +kernel

theorem constantHalves_iff {key : Word} : ConstantHalf (keyHalves key).1 ∧ ConstantHalf (keyHalves key).2 ↔
    ∃ k ∈ constantKeys, keyHalves key = keyHalves k := by
  calc ConstantHalf (keyHalves key).1 ∧ ConstantHalf (keyHalves key).2
      ↔ keyHalves key ∈ constantKeys.map keyHalves := by
        simp only [map_keyHalves_constantKeys, ConstantHalf, List.mem_cons, List.not_mem_nil, or_false, Prod.ext_iff]
        tauto
    _ ↔ ∃ k ∈ constantKeys, keyHalves key = keyHalves k := by
        simp only [List.mem_map, eq_comm]

/-- INIT without a draw, in a mode it accepts, completes and latches the schedule of KEY, whatever KEY holds
(45_control.md R172). -/
theorem exec_init_latches_key {s : State} (hm : modeUnsupported s.mode = false) :
    ∃ t, exec (.init false false) s = .next t ∧ t.err = 0 ∧ t.subkey = keySchedule s.key :=
  ⟨_, exec_init false false hm, rfl, rfl⟩

/-- Settles O32: a constant half stands still, the four keys have all pairs of constant halves, and INIT looks at MODE
only. -/
theorem constantHalvesGiveEqualSubkeys : Obligations.ConstantHalvesGiveEqualSubkeys := by
  refine fun key => ⟨?_, ?_, ?_⟩
  · rintro ⟨hc, hd⟩ i
    rw [keySchedule_getElem_of_constant hc hd, keySchedule_getElem_of_constant hc hd]
  · simp only [← keyHalves_eq_iff]
    exact constantHalves_iff
  · rintro - s rfl hmode
    refine exec_init_latches_key ?_
    obtain h | h := hmode <;> rw [h] <;> rfl

end Sys2Proof.Machine
end

section
/-! SUPPORT. The Feistel driver (43_feistel.md): a round undoes itself between two exchanges of the halves (R138), so
the reversed schedule undoes the block transform (R142); the instance's block commands, the schedule whatever it may be;
and the packing of the S-box outputs (R136). -/

namespace Sys2Proof.Machine

/-! ## The halves of a block -/

@[simp] theorem leftHalf_append (l r : Half) : leftHalf (l ++ r) = l := BitVec.extractLsb'_append_eq_left

@[simp] theorem rightHalf_append (l r : Half) : rightHalf (l ++ r) = r := BitVec.extractLsb'_append_eq_right

theorem leftHalf_append_rightHalf (lr : Word) : leftHalf lr ++ rightHalf lr = lr :=
  BitVec.extractLsb'_append_extractLsb'

@[simp] theorem swapHalves_append (l r : Half) : swapHalves (l ++ r) = r ++ l := by
  simp [swapHalves]

@[simp] theorem swapHalves_swapHalves (lr : Word) : swapHalves (swapHalves lr) = lr := by
  calc swapHalves (swapHalves lr)
      = leftHalf lr ++ rightHalf lr := swapHalves_append _ _
    _ = lr := leftHalf_append_rightHalf lr

/-! ## Rounds undone -/

@[simp] theorem feistelRound_append (l r : Half) (k : Subkey) :
    feistelRound (l ++ r) k = r ++ (l ^^^ feistelF r k) := by
  simp [feistelRound]

theorem swapHalves_feistelRound (lr : Word) (k : Subkey) :
    swapHalves (feistelRound lr k) = (leftHalf lr ^^^ feistelF (rightHalf lr) k) ++ rightHalf lr :=
  swapHalves_append _ _

/-- The second round's f has the same input as the first's, and so cancels it (43_feistel.md R138, R142). -/
theorem feistelRound_swapHalves_feistelRound (lr : Word) (k : Subkey) :
    feistelRound (swapHalves (feistelRound lr k)) k = swapHalves lr := by
  calc feistelRound (swapHalves (feistelRound lr k)) k
      = feistelRound ((leftHalf lr ^^^ feistelF (rightHalf lr) k) ++ rightHalf lr) k := by
        rw [swapHalves_feistelRound]
    _ = rightHalf lr ++ leftHalf lr := by
        rw [feistelRound_append, BitVec.xor_assoc, BitVec.xor_self, BitVec.xor_zero]

/-- The rounds under the reversed schedule undo the rounds one by one, the last one first. -/
theorem foldl_feistelRound_reverse (ks : List Subkey) (lr : Word) :
    ks.reverse.foldl feistelRound (swapHalves (ks.foldl feistelRound lr)) = swapHalves lr := by
  induction ks generalizing lr with
  | nil => rfl
  | cons k ks ih =>
    rw [List.foldl_cons, List.reverse_cons, List.foldl_append, ih, List.foldl_cons, List.foldl_nil,
      feistelRound_swapHalves_feistelRound]

/-- Between the two transforms IP cancels the inverse IP, which leaves the rounds and their undoing
(43_feistel.md R142). -/
theorem transform_reverse_transform (ks : List Subkey) (x : Word) : transform (transform x ks) ks.reverse = x := by
  rw [transform, transform, permute_tableIP_tableIPInv, foldl_feistelRound_reverse, swapHalves_swapHalves,
    permute_tableIPInv_tableIP]

@[simp] theorem desD_desE (ks : Vector Subkey 16) (x : Word) : desD ks (desE ks x) = x :=
  transform_reverse_transform ks.toList x

@[simp] theorem desE_desD (ks : Vector Subkey 16) (x : Word) : desE ks (desD ks x) = x := by
  have h := transform_reverse_transform ks.toList.reverse x
  rwa [List.reverse_reverse] at h

/-! ## The block commands under an instance -/

/-- When ENC completes, and with what (44_chaining.md R152). -/
theorem exec_enc {s : State} (hk : s.ksv = true) :
    exec .enc s = .next (complete 0x10#8 (blockResult encryptBlock s)) :=
  runCommand_ok ((blockBody_eq _ s).trans (if_pos hk))

/-- When DEC completes, and with what (44_chaining.md R153). -/
theorem exec_dec {s : State} (hk : s.ksv = true) :
    exec .dec s = .next (complete 0x11#8 (blockResult decryptBlock s)) :=
  runCommand_ok ((blockBody_eq _ s).trans (if_pos hk))

/-- When CRYPT completes, and with what (43_feistel.md R141). -/
theorem exec_crypt {s : State} (dir : Bool) (hk : s.ksv = true) :
    exec (.crypt dir) s = .next (complete 0x25#8
      { s with tout := if dir then desD s.subkey s.tin else desE s.subkey s.tin }) :=
  runCommand_ok ((cryptBody_eq dir s).trans (if_pos hk))

/-- Under an instance no block command looks at anything else before it completes (44_chaining.md R152, R153;
43_feistel.md R141). -/
theorem exec_block_completes {s : State} {i : Instr} (hk : s.ksv = true)
    (hi : i ∈ [.enc, .dec, .crypt false, .crypt true]) : ∃ t, exec i s = .next t ∧ t.err = 0 := by
  simp only [List.mem_cons, List.not_mem_nil, or_false] at hi
  obtain rfl | rfl | rfl | rfl := hi
  · exact ⟨_, exec_enc hk, rfl⟩
  · exact ⟨_, exec_dec hk, rfl⟩
  · exact ⟨_, exec_crypt false hk, rfl⟩
  · exact ⟨_, exec_crypt true hk, rfl⟩

/-- Settles O28: by induction on the schedule each round is undone between two exchanges of the halves, and no block
command's check reads SUBKEY. -/
theorem reversedScheduleUndoesTheTransform : Obligations.ReversedScheduleUndoesTheTransform :=
  ⟨transform_reverse_transform, fun ks x => ⟨desD_desE ks x, desE_desD ks x⟩,
    fun _ _ _ hi hk => exec_block_completes hk hi⟩

/-! ## The packing of the S-box outputs -/

/-- Each output has as many outputs below it as there are boxes of a higher number, four bits each (43_feistel.md
R136). -/
theorem substitute_extractLsb' (x : Subkey) (j : Fin 8) :
    (substitute x).extractLsb' (28 - 4 * j.val) 4 = sboxOfChunk x j := by
  fin_cases j <;>
    simp only [substitute, BitVec.extractLsb'_append_eq_of_le, BitVec.extractLsb'_append_eq_right,
      BitVec.extractLsb'_eq_self, Nat.reduceMul, Nat.reduceSub, Nat.reduceLeDiff] <;>
    rfl

/-- Settles O33: the chunk the statement writes out is the one `substitute` reads for that box. -/
theorem sboxOutputsArePackedByFourBits : Obligations.SboxOutputsArePackedByFourBits :=
  substitute_extractLsb'

end Sys2Proof.Machine
end

section
/-! SUPPORT. CBC decryption block by block: each decrypted block reads two neighbouring blocks of the ciphertext and no
other (R151), so a changed ciphertext block reaches two decrypted blocks (44_chaining.md R159). -/

namespace Sys2Proof.Machine

/-! ## CBC decryption, block by block -/

@[simp] theorem length_cbcD (d : Word → Word) (iv : Word) (ct : List Word) :
    (cbcD d iv ct).length = ct.length := by
  induction ct generalizing iv with
  | nil => rfl
  | cons c ct ih => exact congrArg (· + 1) (ih c)

/-- Decrypted block `j` is `d` of ciphertext block `j`, XORed with the ciphertext block before it: block `j` of the list
that begins with the IV (44_chaining.md R151). -/
theorem cbcD_getD (d : Word → Word) (iv : Word) {ct : List Word} {j : Nat} (hj : j < ct.length) :
    (cbcD d iv ct).getD j 0 = d (ct.getD j 0) ^^^ (iv :: ct).getD j 0 := by
  induction ct generalizing iv j with
  | nil => exact absurd hj (Nat.not_lt_zero j)
  | cons c ct ih =>
    cases j with
    | zero => rfl
    | succ j => exact ih c (Nat.lt_of_succ_lt_succ hj)

/-- `d` is undone by `e`, so it is injective: the decrypted block tells the ciphertext block (43_feistel.md R142). -/
theorem desD_injective (ks : Vector Subkey 16) : Function.Injective (desD ks) :=
  Function.LeftInverse.injective (desE_desD ks)

/-! ## What a changed ciphertext block reaches -/

section
variable (d : Word → Word) (iv x : Word) {ct : List Word} {i : Nat}

/-- After the change of ciphertext block `i`, which is block `i + 1` of the list that begins with the IV. -/
theorem cbcD_set_getD {j : Nat} (hj : j < ct.length) : (cbcD d iv (ct.set i x)).getD j 0 =
    d ((ct.set i x).getD j 0) ^^^ ((iv :: ct).set (i + 1) x).getD j 0 :=
  cbcD_getD d iv (by simpa using hj)

/-- Block `j` reads the ciphertext blocks `j` and `j - 1`, and neither is the changed one. -/
theorem cbcD_set_getD_of_ne {j : Nat} (hj : j ≠ i) (hs : j ≠ i + 1) :
    (cbcD d iv (ct.set i x)).getD j 0 = (cbcD d iv ct).getD j 0 := by
  by_cases h : j < ct.length
  · rw [cbcD_set_getD d iv x h, cbcD_getD d iv h]
    simp only [List.getD_eq_getElem?_getD, List.getElem?_set_ne hj.symm, List.getElem?_set_ne hs.symm]
  · rw [List.getD_eq_default _ _ (by simpa using h), List.getD_eq_default _ _ (by simpa using h)]

/-- Block `i` reads the changed block through `d`, and the block before it as it was. -/
theorem cbcD_set_getD_self (hi : i < ct.length) :
    (cbcD d iv (ct.set i x)).getD i 0 = d x ^^^ (iv :: ct).getD i 0 := by
  rw [cbcD_set_getD d iv x hi]
  simp only [List.getD_eq_getElem?_getD, List.getElem?_set_self hi, Option.getD_some,
    List.getElem?_set_ne (Nat.succ_ne_self i)]

/-- Block `i + 1` reads the changed block as its chain value, and its own ciphertext block as it was. -/
theorem cbcD_set_getD_succ (hi : i + 1 < ct.length) :
    (cbcD d iv (ct.set i x)).getD (i + 1) 0 = d (ct.getD (i + 1) 0) ^^^ x := by
  rw [cbcD_set_getD d iv x hi]
  simp only [List.getD_eq_getElem?_getD, List.getElem?_set_ne i.lt_succ_self.ne, List.set_cons_succ,
    List.getElem?_cons_succ, List.getElem?_set_self (Nat.lt_of_succ_lt hi), Option.getD_some]

/-- So its changed bits are those of the changed block: its own block's `d` cancels out. -/
theorem cbcD_set_getD_succ_xor (hi : i + 1 < ct.length) :
    (cbcD d iv (ct.set i x)).getD (i + 1) 0 ^^^ (cbcD d iv ct).getD (i + 1) 0 = x ^^^ ct[i] := by
  rw [cbcD_set_getD_succ d iv x hi, cbcD_getD d iv hi, List.getD_cons_succ,
    List.getD_eq_getElem _ _ (Nat.lt_of_succ_lt hi), BitVec.xor_comm _ x, BitVec.xor_assoc, xor_cancel_left]

end

/-- Settles O52: block `i` changes because `desD` is injective, and block `i + 1` in the bits of its chain value. -/
theorem cbcErrorReachesTwoBlocks : Obligations.CbcErrorReachesTwoBlocks := by
  intro ks iv x ct i hi hx p q
  refine ⟨by simp [p, q], fun j => cbcD_set_getD_of_ne _ iv x, fun h => ?_, cbcD_set_getD_succ_xor _ iv x⟩
  rw [cbcD_set_getD_self _ iv x hi, cbcD_getD _ iv hi, BitVec.xor_left_inj, List.getD_eq_getElem _ _ hi] at h
  exact hx (desD_injective ks h)

end Sys2Proof.Machine
end

section
/-! SUPPORT. Errors (60_exceptions.md): no step stops the machine (R196), when a command raises each error of R188 to
R192, and that a CMD write records the first check that fails (R185, R194). -/

namespace Sys2Proof.Machine

/-! ## No step stops the machine -/

theorem execute_next (w : Word) (s : State) : ∃ t, execute w s = .next t := by
  cases hd : decode w with
  | ok i => rw [execute_ok hd]; exact exec_next i s
  | error e => exact ⟨_, execute_error hd s⟩

theorem writeCmd_next (w : Word) (s : State) : ∃ t, writeCmd w s = .next t := by
  unfold writeCmd
  split
  · exact ⟨_, rfl⟩
  · exact execute_next w _

theorem transact_next (x : Transaction) (s : State) : ∃ t, transact x s = .next t := by
  cases x with
  | regWrite idx v =>
    simp only [transact]
    split
    · exact writeCmd_next v _
    · exact ⟨_, rfl⟩
  | _ => exact ⟨_, rfl⟩

/-- Settles O6: an idle step, and every transaction with the command it starts, answers a next state. -/
theorem everyStepAnswersANextState : Obligations.EveryStepAnswersANextState := by
  refine ⟨fun s => ?_, fun s hp => step_nil hp⟩
  cases hp : s.pending with
  | nil => exact ⟨_, step_nil hp⟩
  | cons x rest => rw [step_cons hp]; exact transact_next x _

/-! ## When a command raises an error -/

theorem modeUnsupported_iff {m : BitVec 2} : modeUnsupported m = true ↔ m = 2#2 ∨ m = 3#2 := by
  simp [modeUnsupported]

/-- INIT in a mode it rejects (45_control.md R173). -/
theorem exec_init_of_modeUnsupported {s : State} (kg ig : Bool) (hm : modeUnsupported s.mode = true) :
    exec (.init kg ig) s = .next (raise 0x01#8 (.err .unsupportedMode) s) :=
  runCommand_error ((initBody_eq kg ig s).trans (if_pos hm))

/-- ENCMSG and DECMSG raise what `messageBody` raises, which does not look at the direction. -/
theorem exec_message_of_error {s : State} {i : Instr} {c : ErrCode} (hi : i ∈ [.encmsg, .decmsg])
    (hb : ∀ block, messageBody block s = .error (.err c)) : exec i s = .next (raise i.opcode (.err c) s) := by
  simp only [List.mem_cons, List.not_mem_nil, or_false] at hi
  obtain rfl | rfl := hi
  · exact runCommand_error (hb _)
  · exact runCommand_error (hb _)

/-- A LEN that is no multiple of 8 (44_chaining.md R157). -/
theorem exec_message_of_length {s : State} {i : Instr} (hi : i ∈ [.encmsg, .decmsg]) (hk : s.ksv = true)
    (hm : s.len.toNat % 8 ≠ 0) : exec i s = .next (raise i.opcode (.err .invalidInputLength) s) :=
  exec_message_of_error hi fun block => by simp [messageBody_eq, hk, hm]

/-- A LEN above N_BUF that passed the mod-8 check (44_chaining.md R157). -/
theorem exec_message_of_overrun {s : State} {i : Instr} (hi : i ∈ [.encmsg, .decmsg]) (hk : s.ksv = true)
    (hm : s.len.toNat % 8 = 0) (hn : s.nBuf < s.len.toNat) :
    exec i s = .next (raise i.opcode (.err .bufferOverrun) s) :=
  exec_message_of_error hi fun block => by simp [messageBody_eq, hk, hm, hn]

/-- The commands that use the instance's schedule, where there is none. -/
theorem exec_of_no_instance {s : State} {i : Instr} (hk : s.ksv = false)
    (hi : i ∈ [.enc, .dec, .encmsg, .decmsg, .crypt false, .crypt true]) :
    exec i s = .next (raise i.opcode (.err .notInitialised) s) := by
  have hk' : ¬ s.ksv = true := Bool.eq_false_iff.mp hk
  have hmsg (block) : messageBody block s = .error (.err .notInitialised) := (messageBody_eq block s).trans (if_pos hk)
  simp only [List.mem_cons, List.not_mem_nil, or_false] at hi
  obtain rfl | rfl | rfl | rfl | rfl | rfl := hi
  · exact runCommand_error ((blockBody_eq _ s).trans (if_neg hk'))
  · exact runCommand_error ((blockBody_eq _ s).trans (if_neg hk'))
  · exact exec_message_of_error (by simp) hmsg
  · exact exec_message_of_error (by simp) hmsg
  · exact runCommand_error ((cryptBody_eq false s).trans (if_neg hk'))
  · exact runCommand_error ((cryptBody_eq true s).trans (if_neg hk'))

theorem ErrCode.code_injective : Function.Injective ErrCode.code := by
  intro c d h
  cases c <;> cases d <;> simp [ErrCode.code] at h ⊢

/-- The code a command leaves in ERR tells the error it raised, and with it the reason. -/
theorem raises_of_err {s t : State} {i : Instr} {c : ErrCode} (h : exec i s = .next t) (he : t.err = c.code) :
    Raises s i c := by
  rcases exec_effects h with ⟨d, hd, rfl⟩ | ⟨u, -, rfl⟩
  · exact ErrCode.code_injective he ▸ hd
  · exact absurd he.symm c.code_ne_zero

/-- Settles O16: the instance check is the first of each of the five commands, and the code names that check. -/
theorem notInitialisedWithoutAnInstance : Obligations.NotInitialisedWithoutAnInstance := by
  refine ⟨fun s i hi hk => exec_of_no_instance hk hi, fun s t i hi h he => ?_⟩
  cases raises_of_err (c := .notInitialised) h he with
  | noInstance _ hi' => exact hi hi'

/-- Settles O17: the mode check comes before INIT draws or latches, and the code names that check. -/
theorem unsupportedModeAtInitOnly : Obligations.UnsupportedModeAtInitOnly := by
  refine ⟨fun s kg ig hm => exec_init_of_modeUnsupported kg ig (modeUnsupported_iff.mpr hm), fun s t i h he => ?_⟩
  cases raises_of_err (c := .unsupportedMode) h he with
  | @mode kg ig hm => exact ⟨modeUnsupported_iff.mp hm, kg, ig, rfl⟩

/-- Settles O18: with an instance the mod-8 check is the next one, and the code names that check. -/
theorem malformedLengthIsRejected : Obligations.MalformedLengthIsRejected := by
  refine ⟨fun s i hi hk hm => exec_message_of_length hi hk hm, fun s t i h he => ?_⟩
  cases raises_of_err (c := .invalidInputLength) h he with
  | length _ hm hi => exact ⟨hm, hi⟩

/-- Settles O19: after the mod-8 check the bound by N_BUF is the last one, and the code names that check. -/
theorem overlongMessageIsRejected : Obligations.OverlongMessageIsRejected := by
  refine ⟨fun s i hi hk hm hn => exec_message_of_overrun hi hk hm hn, fun s t i h he => ?_⟩
  cases raises_of_err (c := .bufferOverrun) h he with
  | overrun _ hm hn hi => exact ⟨hm, hn, hi⟩

/-! ## The first check that fails -/

theorem firstFailingCheck_of_not_legal {w : Word} (s : State) (h : legal w = false) :
    firstFailingCheck w s = ErrCode.illegalCmd.code := by
  simp [firstFailingCheck, h, ErrCode.code]

/-- The reason for which a word's command raises is the first check that fails (60_exceptions.md R194). -/
theorem firstFailingCheck_of_raises {w : Word} {i : Instr} {s : State} {c : ErrCode} (hd : decode w = .ok i)
    (h : Raises s i c) : firstFailingCheck w s = c.code := by
  have hl : legal w = true := (legal_iff_decodes w).mpr ⟨i, hd⟩
  obtain ⟨hwf, -, hop, -⟩ := decode_eq_ok_iff.mp hd
  cases h with
  | illegal hn => rw [hwf] at hn; cases hn
  | mode hm => simp [firstFailingCheck, hl, hop, Instr.opcode, modeUnsupported_iff.mp hm, ErrCode.code]
  | noInstance hk hi =>
    simp only [List.mem_cons, List.not_mem_nil, or_false] at hi
    obtain rfl | rfl | rfl | rfl | rfl | rfl := hi <;>
      simp [firstFailingCheck, hl, hop, Instr.opcode, hk, ErrCode.code]
  | length hk hm hi =>
    simp only [List.mem_cons, List.not_mem_nil, or_false] at hi
    obtain rfl | rfl := hi <;> simp [firstFailingCheck, hl, hop, Instr.opcode, hk, hm, ErrCode.code]
  | overrun hk hm hn hi =>
    simp only [List.mem_cons, List.not_mem_nil, or_false] at hi
    obtain rfl | rfl := hi <;> simp [firstFailingCheck, hl, hop, Instr.opcode, hk, hm, hn, ErrCode.code]

/-- Where a word's command completes, no check fails. -/
theorem firstFailingCheck_of_writes {w : Word} {i : Instr} {s u : State} (hd : decode w = .ok i)
    (h : Writes s i u) : firstFailingCheck w s = 0 := by
  have hl : legal w = true := (legal_iff_decodes w).mpr ⟨i, hd⟩
  obtain ⟨-, -, hop, -⟩ := decode_eq_ok_iff.mp hd
  cases h with
  | init hm =>
    have hm' : ¬ (s.mode = 2#2 ∨ s.mode = 3#2) := by rw [← modeUnsupported_iff, hm]; decide
    simp [firstFailingCheck, hl, hop, Instr.opcode, hm']
  | enc hk | dec hk | crypt hk => simp [firstFailingCheck, hl, hop, Instr.opcode, hk]
  | encmsg hk hm hn | decmsg hk hm hn =>
    simp [firstFailingCheck, hl, hop, Instr.opcode, hk, hm, Nat.not_lt.mpr hn]
  | _ => simp [firstFailingCheck, hl, hop, Instr.opcode]

/-- The command of a word records the word's OP and the code of the first check that fails. -/
theorem exec_records {w : Word} {i : Instr} {s t : State} (hd : decode w = .ok i) (h : exec i s = .next t) :
    t.lastop = opField w ∧ t.err = firstFailingCheck w s := by
  obtain ⟨-, -, hop, -⟩ := decode_eq_ok_iff.mp hd
  rcases exec_effects h with ⟨c, hc, rfl⟩ | ⟨u, hu, rfl⟩
  · exact ⟨hop.symm, (firstFailingCheck_of_raises hd hc).symm⟩
  · exact ⟨hop.symm, (firstFailingCheck_of_writes hd hu).symm⟩

theorem execute_records (w : Word) (s : State) :
    ∃ t, execute w s = .next t ∧ t.lastop = opField w ∧ t.err = firstFailingCheck w s := by
  cases hl : legal w with
  | false =>
    obtain ⟨e, hd⟩ := exists_reject_of_not_legal hl
    exact ⟨_, execute_error hd s, rfl, (firstFailingCheck_of_not_legal s hl).symm⟩
  | true =>
    obtain ⟨i, hd⟩ := (legal_iff_decodes w).mp hl
    obtain ⟨t, ht⟩ := exec_next i s
    exact ⟨t, (execute_ok hd s).trans ht, exec_records hd ht⟩

/-- Settles O15: the write executes the word on a state that no check tells from `s`, since none looks at CMD or at the
host's list. -/
theorem errIsTheFirstFailingCode : Obligations.ErrIsTheFirstFailingCode := by
  intro s w rest hp hf
  rw [step_cmd hp hf]
  exact execute_records w (s.withCommand w rest)

end Sys2Proof.Machine
end

section
/-! SUPPORT. Reset and hazards: what reset leaves (70_reset_and_hazards.md R210), that a command that raises changes
STATUS alone (R219), and that KEY, IV and MODE reach no command but INIT (R215). -/

namespace Sys2Proof.Machine

/-! ## Reset -/

/-- The reset state with the fields that are not the machine's to reset as given (log entries 3 to 6). -/
def resetWith (nBuf epoch : Nat) (entropy : List Word) (draws : Nat) (pending : List Transaction) : State :=
  { State.reset with
    nBuf := nBuf
    dbufEpoch := epoch
    entropy := entropy
    drawCount := draws
    pending := pending }

theorem reset_eq_resetWith : State.reset = resetWith Config.nBuf 0 [] 0 [] := rfl

theorem hostReset_eq_resetWith (s : State) :
    hostReset s = resetWith s.nBuf (s.dbufEpoch + 1) s.entropy s.drawCount s.pending := rfl

theorem step_reset {s : State} {rest : List Transaction} (hp : s.pending = .reset :: rest) :
    step s = .next (hostReset { s with pending := rest }) :=
  step_cons hp

/-- Power-up and the host's reset leave the same registers. -/
theorem exists_resetWith {t : State}
    (h : t = State.reset ∨ ∃ s rest, s.pending = .reset :: rest ∧ step s = .next t) :
    ∃ n e es c p, t = resetWith n e es c p := by
  rcases h with rfl | ⟨s, rest, hp, hs⟩
  · exact ⟨_, _, _, _, _, reset_eq_resetWith⟩
  · rw [step_reset hp] at hs
    cases hs
    exact ⟨_, _, _, _, _, hostReset_eq_resetWith _⟩

theorem resetWith_subkey (n e : Nat) (es : List Word) (c : Nat) (p : List Transaction) (k : Fin 16) :
    (resetWith n e es c p).subkey[k] = 0 :=
  Vector.getElem_replicate k.isLt

/-- DBUF has no written byte after reset, so each is the free value of its reset (20_memory.md R61). -/
theorem resetWith_dbufByte (n e : Nat) (es : List Word) (c : Nat) (p : List Transaction) (a : Nat) :
    dbufByte (resetWith n e es c p) a = Config.dbufUnwritten e a := rfl

/-- Settles O7: both resets leave `resetWith`, whose registers are those of `State.reset` and whose DBUF holds no
written byte. -/
theorem resetLeavesTheStatedState : Obligations.ResetLeavesTheStatedState := by
  intro t ht
  obtain ⟨n, e, es, c, p, rfl⟩ := exists_resetWith ht
  exact ⟨rfl, rfl, rfl, rfl, rfl, rfl, rfl, rfl, rfl, rfl, rfl, rfl, resetWith_subkey n e es c p,
    rfl, rfl, rfl, rfl, rfl, resetWith_dbufByte n e es c p⟩

/-! ## A command that raises -/

/-- Settles O20: a command either raises, which writes ERR and LASTOP alone, or completes, which leaves ERR = 0. -/
theorem raisingCommandChangesOnlyStatus : Obligations.RaisingCommandChangesOnlyStatus := by
  intro s t i h he
  rcases exec_effects h with ⟨c, -, rfl⟩ | ⟨u, -, rfl⟩
  · rfl
  · exact absurd (complete_err i.opcode u) he

/-! ## The staging registers -/

/-- `s` with other contents of KEY, IV and MODE, which are staging registers (10_state.md R24 to R26). -/
def State.withStaging (k v : Word) (m : BitVec 2) (s : State) : State := { s with key := k, iv := v, mode := m }

@[simp] theorem withStaging_ksv (k v : Word) (m : BitVec 2) (s : State) : (s.withStaging k v m).ksv = s.ksv := rfl
@[simp] theorem withStaging_len (k v : Word) (m : BitVec 2) (s : State) : (s.withStaging k v m).len = s.len := rfl
@[simp] theorem withStaging_nBuf (k v : Word) (m : BitVec 2) (s : State) : (s.withStaging k v m).nBuf = s.nBuf := rfl

/-- A body that neither reads nor writes the staging registers: replacing their contents before it runs is the same as
replacing them in its result, and it raises in the same cases. -/
def IgnoresStaging (body : State → Except Raise State) : Prop :=
  ∀ (k v : Word) (m : BitVec 2) (s : State), body (s.withStaging k v m) = (body s).map (State.withStaging k v m)

theorem raise_withStaging (op : Byte) (r : Raise) (k v : Word) (m : BitVec 2) (s : State) :
    raise op r (s.withStaging k v m) = (raise op r s).withStaging k v m := by
  cases r <;> rfl

theorem complete_withStaging (op : Byte) (k v : Word) (m : BitVec 2) (s : State) :
    complete op (s.withStaging k v m) = (complete op s).withStaging k v m := rfl

/-- A command whose body ignores the staging registers ignores them to its end. -/
theorem IgnoresStaging.runCommand_withStaging {op : Byte} {body : State → Except Raise State} {s t : State}
    (hb : IgnoresStaging body) (k v : Word) (m : BitVec 2) (h : runCommand op body s = .next t) :
    runCommand op body (s.withStaging k v m) = .next (t.withStaging k v m) := by
  rcases runCommand_cases h with ⟨u, hu, rfl⟩ | ⟨r, hr, rfl⟩
  · have hu' : body (s.withStaging k v m) = .ok (u.withStaging k v m) := by rw [hb, hu]; rfl
    rw [runCommand_ok hu', complete_withStaging]
  · have hr' : body (s.withStaging k v m) = .error r := by rw [hb, hr]; rfl
    rw [runCommand_error hr', raise_withStaging]

theorem permWith_ignoresStaging {w n : Nat} (t : PermTable w n) : IgnoresStaging (permWith t) := by
  intro k v m s
  rw [permWith_eq, permWith_eq]
  split <;> rfl

theorem permBody_ignoresStaging (sel : Byte) : IgnoresStaging (permBody sel) := by
  intro k v m s
  unfold permBody
  split
  case h_7 => rfl
  all_goals exact permWith_ignoresStaging _ k v m s

theorem sboxBody_ignoresStaging (sel : Byte) : IgnoresStaging (sboxBody sel) := by
  intro k v m s
  unfold sboxBody
  split <;> rfl

theorem ksubBody_ignoresStaging (sel : Byte) : IgnoresStaging (ksubBody sel) := by
  intro k v m s
  rw [ksubBody_eq, ksubBody_eq]
  split <;> rfl

theorem ffuncBody_ignoresStaging : IgnoresStaging ffuncBody := by
  intro k v m s
  rw [ffuncBody_eq, ffuncBody_eq]
  rfl

theorem roundBody_ignoresStaging : IgnoresStaging roundBody := by
  intro k v m s
  rw [roundBody_eq, roundBody_eq]
  rfl

theorem cryptBody_ignoresStaging (dir : Bool) : IgnoresStaging (cryptBody dir) := by
  intro k v m s
  rw [cryptBody_eq, cryptBody_eq, withStaging_ksv]
  split <;> rfl

section
variable {block : State → Word → Word → Word × Word}
  (hblock : ∀ k v m s, block (State.withStaging k v m s) = block s)
include hblock

theorem blockBody_ignoresStaging : IgnoresStaging (blockBody block) := by
  intro k v m s
  rw [blockBody_eq, blockBody_eq, hblock, withStaging_ksv]
  split <;> rfl

theorem messageBody_ignoresStaging : IgnoresStaging (messageBody block) := by
  intro k v m s
  rw [messageBody_eq, messageBody_eq, hblock, withStaging_ksv, withStaging_len, withStaging_nBuf]
  split_ifs <;> rfl

end

theorem encryptBlock_withStaging (k v : Word) (m : BitVec 2) (s : State) :
    encryptBlock (s.withStaging k v m) = encryptBlock s := rfl

theorem decryptBlock_withStaging (k v : Word) (m : BitVec 2) (s : State) :
    decryptBlock (s.withStaging k v m) = decryptBlock s := rfl

/-- No command but INIT reads KEY, IV or MODE. -/
theorem exec_withStaging {s t : State} {i : Instr} (k v : Word) (m : BitVec 2) (hi : ∀ kg ig, i ≠ .init kg ig)
    (h : exec i s = .next t) : exec i (s.withStaging k v m) = .next (t.withStaging k v m) := by
  cases i with
  | init kg ig => exact absurd rfl (hi kg ig)
  | nop => exact IgnoresStaging.runCommand_withStaging (body := .ok) (fun _ _ _ _ => rfl) k v m h
  | rstchain =>
    exact IgnoresStaging.runCommand_withStaging (body := fun s => .ok { s with chain := s.aiv })
      (fun _ _ _ _ => rfl) k v m h
  | enc => exact (blockBody_ignoresStaging encryptBlock_withStaging).runCommand_withStaging k v m h
  | dec => exact (blockBody_ignoresStaging decryptBlock_withStaging).runCommand_withStaging k v m h
  | encmsg => exact (messageBody_ignoresStaging encryptBlock_withStaging).runCommand_withStaging k v m h
  | decmsg => exact (messageBody_ignoresStaging decryptBlock_withStaging).runCommand_withStaging k v m h
  | perm sel => exact (permBody_ignoresStaging sel).runCommand_withStaging k v m h
  | sbox sel => exact (sboxBody_ignoresStaging sel).runCommand_withStaging k v m h
  | ffunc => exact ffuncBody_ignoresStaging.runCommand_withStaging k v m h
  | round => exact roundBody_ignoresStaging.runCommand_withStaging k v m h
  | ksub sel => exact (ksubBody_ignoresStaging sel).runCommand_withStaging k v m h
  | crypt dir => exact (cryptBody_ignoresStaging dir).runCommand_withStaging k v m h

/-- Of the host's register writes only the one to CHAIN changes CHAIN (20_memory.md R63). -/
theorem writeReg_chain (s : State) {idx : Byte} (v : Word) (hi : idx.toNat ≠ 0x05) :
    (writeReg s idx v).chain = s.chain := by
  unfold writeReg
  split
  case h_4 h => exact absurd h hi
  all_goals rfl

theorem staging_write_keeps_instance {s t : State} {idx : Byte} {v : Word} {rest : List Transaction}
    (hp : s.pending = .regWrite idx v :: rest) (hi : idx ∈ [0x02#8, 0x03#8, 0x04#8]) (h : step s = .next t) :
    t.cipherInstance = s.cipherInstance ∧ t.chain = s.chain := by
  have hne : ∀ j ∈ [0x02#8, 0x03#8, 0x04#8], j ≠ idxCmd ∧ j.toNat ≠ 0x05 := by decide
  obtain ⟨hcmd, hchain⟩ := hne idx hi
  rw [step_regWrite hcmd hp] at h
  cases h
  exact ⟨writeReg_cipherInstance _ _ _, writeReg_chain _ _ hchain⟩

/-- Settles O25: the body of every command but INIT commutes with replacing the staging registers, and a host write to
one of them is a `writeReg` at an index other than CHAIN's. -/
theorem stagingRegistersAreReadOnlyByInit : Obligations.StagingRegistersAreReadOnlyByInit := by
  refine ⟨fun s t i k v m hi h => exec_withStaging k v m hi h, fun s t idx v rest hp hi h => ?_⟩
  obtain ⟨hinst, hchain⟩ := staging_write_keeps_instance hp hi h
  obtain ⟨hsub, hksv, hamode, haiv⟩ := cipherInstance_eq_iff.mp hinst
  exact ⟨hsub, hksv, hamode, haiv, hchain⟩

end Sys2Proof.Machine
end

section
/-! SUPPORT. Encoding and decoding undo each other (30_encoding.md R81, R83), and the words the spec writes out. -/

namespace Sys2Proof

/-! ## The word of a command's fields -/

/-- The word of a command holds the command's fields. -/
theorem hasFieldsOf_encode (i : Instr) : HasFieldsOf (encode i) i := by
  obtain ⟨hop, hs, h0, h1, hr⟩ := Laws.EncodeFields.fields_commandWord i.opcode i.sel i.f0 i.f1
  exact ⟨hr, hop, hs, h0, h1⟩

/-- A word without reserved bits is made of its fields: there is no bit outside them (30_encoding.md R81). -/
theorem commandWord_fields {w : Word} (hr : rsvField w = 0#46) :
    commandWord (opField w) (selField w) (f0Field w) (f1Field w) = w := by
  refine BitVec.eq_of_getLsbD_eq fun i hi => ?_
  rw [Laws.EncodeFields.getLsbD_commandWord]
  split_ifs with hop hsel h0 h1
  · simp [opField, hop]
  · simp [selField, show i - 8 < 8 by omega, show 8 + (i - 8) = i by omega]
  · rw [f0Field, h0]
  · rw [f1Field, h1]
  · have hbit := congrArg (·.getLsbD (i - 18)) hr
    simpa [rsvField, show i - 18 < 46 by omega, show 18 + (i - 18) = i by omega] using hbit.symm

/-- The fields decide the word. -/
theorem encode_of_hasFieldsOf {w : Word} {i : Instr} (h : HasFieldsOf w i) : encode i = w := by
  obtain ⟨hr, hop, hs, h0, h1⟩ := h
  rw [encode, ← hop, ← hs, ← h0, ← h1]
  exact commandWord_fields hr

theorem decode_encode {i : Instr} (hwf : i.wf = true) : decode (encode i) = .ok i :=
  decode_of_hasFieldsOf hwf (hasFieldsOf_encode i)

end Sys2Proof

namespace Sys2Proof.Machine

/-- Settles O1: `encode` puts each field in its place, and the fields of a well-formed command decode to it. -/
theorem encodeThenDecodeGivesTheCommand : Obligations.EncodeThenDecodeGivesTheCommand :=
  fun _ hwf => decode_encode hwf

/-- Settles O2: a word that decodes holds the command's fields and no reserved bit, so `encode` builds it again. -/
theorem decodedWordIsTheEncoding : Obligations.DecodedWordIsTheEncoding := by
  intro w i h
  obtain ⟨hwf, hw⟩ := decode_eq_ok_iff.mp h
  exact ⟨hwf, encode_of_hasFieldsOf hw⟩

/-- Settles O4: closed facts about `decode`, evaluated. -/
theorem sampleCommandWordsDecode : Obligations.SampleCommandWordsDecode := by
  unfold Obligations.SampleCommandWordsDecode
  decide +kernel

/-- Settles O5: a CMD write executes its word, and the word's command is the one it decodes to. -/
theorem stepRunsTheDecodedCommand : Obligations.StepRunsTheDecodedCommand := by
  intro s w rest i hp hf hd
  rw [step_cmd hp hf, execute_ok hd]
  rfl

end Sys2Proof.Machine
end

section
/-! SUPPORT. What every step keeps: `State.Inv` (Safety.lean), and FAULT, which only reset clears
(60_exceptions.md R190). -/

namespace Sys2Proof.Machine

/-! ## The invariant -/

/-- `State.Inv` reads nothing else than the size and the written bytes of DBUF, ERR, FAULT and the cipher instance. -/
theorem State.Inv.congr {s t : State} (h : s.Inv) (hn : t.nBuf = s.nBuf) (hd : t.dbuf = s.dbuf) (he : t.err = s.err)
    (hf : t.fault = s.fault) (hc : t.cipherInstance = s.cipherInstance) : t.Inv := by
  obtain ⟨hsub, hksv, hamode, haiv⟩ := cipherInstance_eq_iff.mp hc
  constructor
  · rw [hn]; exact h.size
  · rw [hd]; exact h.canonical
  · rw [hd, hn]; exact h.inside
  · rw [he]; exact h.errKnown
  · rw [hf]; exact h.noFault
  · rw [hsub, hksv, hamode, haiv]; exact h.uninitialised

/-- DBUF may change as long as it stays canonical and inside the buffer (20_memory.md R61). -/
theorem State.Inv.with_dbuf {s : State} (h : s.Inv) {m : Memory} (hwf : m.wf = true) (hb : m.below s.nBuf = true) :
    ({ s with dbuf := m } : State).Inv :=
  ⟨h.size, hwf, hb, h.errKnown, h.noFault, h.uninitialised⟩

theorem ErrCode.code_le (c : ErrCode) : c.code.toNat ≤ 5 := by
  cases c <;> decide

theorem State.Inv.raise_err {s : State} (h : s.Inv) (op : Byte) (c : ErrCode) : (raise op (.err c) s).Inv :=
  ⟨h.size, h.canonical, h.inside, c.code_le, h.noFault, h.uninitialised⟩

theorem State.Inv.complete {s : State} (h : s.Inv) (op : Byte) : (complete op s).Inv :=
  ⟨h.size, h.canonical, h.inside, Nat.zero_le 5, h.noFault, h.uninitialised⟩

/-- INIT sets KSV with the instance it latches (45_control.md R172). -/
theorem State.Inv.initResult {s : State} (h : s.Inv) (kg ig : Bool) : (initResult kg ig s).Inv := by
  obtain ⟨k, v, es, n, hu, -⟩ := initResult_frame kg ig s
  rw [hu]
  exact ⟨h.size, h.canonical, h.inside, h.errKnown, h.noFault, nofun⟩

/-- A message that fits writes canonically and inside the buffer. -/
theorem State.Inv.messageResult {s : State} (h : s.Inv) (block : State → Word → Word → Word × Word)
    (hn : s.len.toNat ≤ s.nBuf) : (messageResult block s).Inv :=
  (h.with_dbuf (messageLoop_wf _ _ _ _ _ h.canonical)
    (messageLoop_below _ _ _ _ _ h.inside (by omega))).congr rfl rfl rfl rfl rfl

theorem Writes.inv {s u : State} {i : Instr} (hu : Writes s i u) (h : s.Inv) : u.Inv := by
  cases hu with
  | init _ => exact h.initResult _ _
  | encmsg _ _ hn | decmsg _ _ hn => exact h.messageResult _ hn
  | _ => exact h.congr rfl rfl rfl rfl rfl

theorem exec_inv {s t : State} {i : Instr} (h : s.Inv) (he : exec i s = .next t) : t.Inv := by
  rcases exec_effects he with ⟨c, -, rfl⟩ | ⟨u, hu, rfl⟩
  · exact h.raise_err _ c
  · exact (hu.inv h).complete _

theorem State.Inv.writeReg {s : State} (h : s.Inv) (idx : Byte) (v : Word) : (writeReg s idx v).Inv := by
  unfold Machine.writeReg
  split <;> exact h.congr rfl rfl rfl rfl rfl

theorem State.Inv.bufWrite {s : State} (h : s.Inv) (a : Nat) (b : Byte) : (bufWrite a b s).Inv := by
  rcases Nat.lt_or_ge a s.nBuf with ha | ha
  · rw [bufWrite_inside b ha]
    exact h.with_dbuf (Memory.wf_write a b h.canonical) (Memory.below_write b h.inside ha)
  · rwa [bufWrite_outside b ha]

/-- The registers of the reset state meet the invariant under every size of DBUF that the spec allows. -/
theorem resetWith_inv {n : Nat} (hn : n % 8 = 0 ∧ 8 ≤ n) (e : Nat) (es : List Word) (c : Nat)
    (p : List Transaction) : (resetWith n e es c p).Inv :=
  ⟨hn, rfl, rfl, Nat.zero_le 5, rfl, fun _ => ⟨rfl, rfl, rfl⟩⟩

/-- What the host's list and the reply hold is no part of the invariant. -/
theorem State.Inv.with_host {s : State} (h : s.Inv) (p : List Transaction) (r : Reply) :
    ({ s with pending := p, reply := r } : State).Inv :=
  h.congr rfl rfl rfl rfl rfl

theorem State.Inv.withCommand {s : State} (h : s.Inv) (w : Word) (rest : List Transaction) :
    (s.withCommand w rest).Inv :=
  h.congr rfl rfl rfl rfl rfl

theorem step_inv {s t : State} (h : s.Inv) (hs : step s = .next t) : t.Inv := by
  cases transition_of_step hs with
  | idle hp => exact h.with_host _ _
  | reset hp => exact resetWith_inv h.size _ _ _ _
  | regRead hp => exact h.with_host _ _
  | bufRead hp => exact h.with_host _ _
  | bufWrite hp => exact ((h.with_host _ s.reply).bufWrite _ _).with_host _ _
  | regWrite _ hp => exact ((h.with_host _ s.reply).writeReg _ _).with_host _ _
  | void hp hf => exact h.with_host _ _
  | illegal hp hf hd => exact (h.withCommand _ _).raise_err _ _
  | command hp hf hd he => exact exec_inv (h.withCommand _ _) he

/-- Settles O13: by cases on the step; a command writes DBUF by block stores below LEN, and sets KSV with the whole
of the instance. -/
theorem everyStepKeepsTheInvariant : Obligations.EveryStepKeepsTheInvariant :=
  fun _ _ h hs => step_inv h hs

theorem config_nBuf_size : Config.nBuf % 8 = 0 ∧ 8 ≤ Config.nBuf := by
  unfold Config.nBuf
  omega

/-- Settles O14: N_BUF at reset is a positive multiple of 8, the open number of blocks whatever it may be. -/
theorem resetStateMeetsTheInvariant : Obligations.ResetStateMeetsTheInvariant :=
  resetWith_inv config_nBuf_size _ _ _ _

/-! ## The fatal table fault -/

theorem nextIsReset_iff {s : State} : s.nextIsReset = true ↔ ∃ rest, s.pending = .reset :: rest := by
  unfold State.nextIsReset
  split
  · next rest hp => exact iff_of_true rfl ⟨rest, hp⟩
  · next hne => exact iff_of_false Bool.false_ne_true fun ⟨rest, hp⟩ => hne rest hp

theorem writeReg_fault (s : State) (idx : Byte) (v : Word) : (writeReg s idx v).fault = s.fault := by
  unfold writeReg
  split <;> rfl

theorem bufWrite_fault (a : Nat) (b : Byte) (s : State) : (bufWrite a b s).fault = s.fault := by
  unfold bufWrite
  split <;> rfl

/-- No step but a reset writes FAULT: the spec's tables raise no table fault, and a command leaves FAULT as it is. -/
theorem step_fault {s t : State} (hs : step s = .next t) (hr : s.nextIsReset = false) : t.fault = s.fault := by
  cases transition_of_step hs with
  | reset hp => rw [nextIsReset_of_reset hp] at hr; cases hr
  | command hp hf hd he => exact (exec_fault he).trans rfl
  | regWrite _ hp => exact writeReg_fault _ _ _
  | bufWrite hp => exact bufWrite_fault _ _ _
  | idle hp => rfl
  | regRead hp => rfl
  | bufRead hp => rfl
  | void hp hf => rfl
  | illegal hp hf hd => rfl

theorem step_fault_of_reset {s t : State} (hs : step s = .next t) (hr : s.nextIsReset = true) : t.fault = false := by
  obtain ⟨rest, hp⟩ := nextIsReset_iff.mp hr
  rw [step_reset hp] at hs
  cases hs
  rfl

/-- Settles O21: `raise` of a table fault writes FAULT and LASTOP, a CMD write under FAULT is void, and of all steps
only a reset clears FAULT. -/
theorem faultStopsCommandsUntilReset : Obligations.FaultStopsCommandsUntilReset := by
  refine ⟨fun op body s h => runCommand_error h, fun s w rest hf hp => step_cmd_void hp hf, fun s t hf hs => ?_⟩
  cases hr : s.nextIsReset with
  | true => exact step_fault_of_reset hs hr
  | false => exact (step_fault hs hr).trans hf

end Sys2Proof.Machine
end

section
/-! SUPPORT. Frames (30_encoding.md R86; 10_state.md R21 to R34): what no command and what each kind of command writes.
Each follows from `exec_effects`: an error writes ERR and LASTOP alone, and `Writes` lists the other writes. -/

namespace Sys2Proof.Machine

/-! ## What a command keeps -/

/-- A part of the state that neither ERR nor LASTOP belongs to is kept by a command whose writes keep it. -/
theorem exec_keeps {α : Type} {f : State → α} {s t : State} {i : Instr} (h : exec i s = .next t)
    (hf : ∀ (u : State) (e : BitVec 4) (l : Byte), f { u with err := e, lastop := l } = f u)
    (hw : ∀ u, Writes s i u → f u = f s) : f t = f s := by
  rcases exec_effects h with ⟨c, -, rfl⟩ | ⟨u, hu, rfl⟩
  · exact hf s _ _
  · exact (hf u _ _).trans (hw u hu)

/-- What only the host and reset write (10_state.md R22, R26, R28 to R30; 00_scope.md R7). -/
def State.hostOwned (s : State) : Word × BitVec 2 × Word × Word × Word × Word × Nat :=
  (s.cmd, s.mode, s.din, s.len, s.tin, s.taux, s.nBuf)

theorem Writes.hostOwned {s u : State} {i : Instr} (h : Writes s i u) : u.hostOwned = s.hostOwned := by
  cases h with
  | @init kg ig =>
    obtain ⟨k, v, es, n, hu, -⟩ := initResult_frame kg ig s
    rw [hu]
    rfl
  | _ => rfl

/-- What INIT alone writes beside the instance: the staging registers it draws, and the source of draws
(45_control.md R172; log entry 5). -/
def State.drawn (s : State) : Word × Word × List Word × Nat := (s.key, s.iv, s.entropy, s.drawCount)

theorem Writes.drawn {s u : State} {i : Instr} (h : Writes s i u) (hi : ∀ kg ig, i ≠ .init kg ig) :
    u.drawn = s.drawn := by
  cases h with
  | @init kg ig => exact absurd rfl (hi kg ig)
  | _ => rfl

theorem Writes.dout {s u : State} {i : Instr} (h : Writes s i u) (hi : i ∉ [.enc, .dec]) : u.dout = s.dout := by
  cases h with
  | enc | dec => exact absurd hi (by decide)
  | @init kg ig =>
    obtain ⟨k, v, es, n, hu, -⟩ := initResult_frame kg ig s
    rw [hu]
  | _ => rfl

theorem Writes.tout {s u : State} {i : Instr} (h : Writes s i u)
    (hi : i ∈ [.nop, .rstchain, .enc, .dec, .encmsg, .decmsg] ∨ ∃ kg ig, i = .init kg ig) : u.tout = s.tout := by
  cases h with
  | @init kg ig =>
    obtain ⟨k, v, es, n, hu, -⟩ := initResult_frame kg ig s
    rw [hu]
  | perm | sbox | ffunc | round | ksub | crypt => simp at hi
  | _ => rfl

/-- DBUF: the bytes written and the reset the others date from. -/
theorem Writes.dbuf {s u : State} {i : Instr} (h : Writes s i u) (hi : i ∉ [.encmsg, .decmsg]) :
    (u.dbufEpoch, u.dbuf) = (s.dbufEpoch, s.dbuf) := by
  cases h with
  | encmsg | decmsg => exact absurd hi (by decide)
  | @init kg ig =>
    obtain ⟨k, v, es, n, hu, -⟩ := initResult_frame kg ig s
    rw [hu]
  | _ => rfl

theorem Writes.chain {s u : State} {i : Instr} (h : Writes s i u)
    (hi : i ∉ [.rstchain, .enc, .dec, .encmsg, .decmsg]) (hinit : ∀ kg ig, i ≠ .init kg ig) : u.chain = s.chain := by
  cases h with
  | rstchain | enc | dec | encmsg | decmsg => exact absurd hi (by decide)
  | @init kg ig => exact absurd rfl (hinit kg ig)
  | _ => rfl

/-- ECB leaves CHAIN alone (10_state.md R27). -/
theorem chainAfter_of_ecb {s : State} (h : s.amode = false) (c : Word) : chainAfter s c = s.chain := by
  simp [chainAfter, h]

theorem Writes.chain_of_ecb {s u : State} {i : Instr} (h : Writes s i u)
    (hi : i ∈ [.enc, .dec, .encmsg, .decmsg]) (ha : s.amode = false) : u.chain = s.chain := by
  cases h with
  | enc | dec | encmsg | decmsg => exact chainAfter_of_ecb ha _
  | _ => simp at hi

theorem exec_dbuf {s t : State} {i : Instr} (h : exec i s = .next t) (hi : i ∉ [.encmsg, .decmsg]) :
    (t.dbufEpoch, t.dbuf) = (s.dbufEpoch, s.dbuf) :=
  exec_keeps (f := fun s => (s.dbufEpoch, s.dbuf)) h (fun _ _ _ => rfl) fun _ hu => hu.dbuf hi

/-- No command but the message commands changes what a byte of DBUF reads. -/
theorem exec_dbufByte {s t : State} {i : Instr} (h : exec i s = .next t) (hi : i ∉ [.encmsg, .decmsg]) (a : Nat) :
    dbufByte t a = dbufByte s a := by
  obtain ⟨he, hd⟩ := Prod.ext_iff.mp (exec_dbuf h hi)
  exact congrArg₂ (byteIn · · a) he hd

theorem exec_chain_of_ecb {s t : State} {i : Instr} (h : exec i s = .next t) (hi : i ∈ [.enc, .dec, .encmsg, .decmsg])
    (ha : s.amode = false) : t.chain = s.chain :=
  exec_keeps (f := State.chain) h (fun _ _ _ => rfl) fun _ hu => hu.chain_of_ecb hi ha

/-- Settles O24: each part of the state by the commands whose writes reach it. -/
theorem commandsWriteOnlyTheirRegisters : Obligations.CommandsWriteOnlyTheirRegisters := by
  intro s t i h
  refine ⟨?host, fun hi => ?staging, ?dout, ?tout, ?dbuf, ?chain, exec_chain_of_ecb h⟩
  case host =>
    simpa [State.hostOwned] using exec_keeps (f := State.hostOwned) h (fun _ _ _ => rfl) fun _ hu => hu.hostOwned
  case staging =>
    obtain ⟨hkey, hiv, hes, hn⟩ : t.key = s.key ∧ t.iv = s.iv ∧ t.entropy = s.entropy ∧ t.drawCount = s.drawCount := by
      simpa [State.drawn] using exec_keeps (f := State.drawn) h (fun _ _ _ => rfl) fun _ hu => hu.drawn hi
    obtain ⟨hsub, hksv, hamode, haiv⟩ := cipherInstance_eq_iff.mp (exec_cipherInstance h (.inl hi))
    exact ⟨hkey, hiv, hsub, hksv, hamode, haiv, hes, hn⟩
  case dout => exact fun hi => exec_keeps (f := State.dout) h (fun _ _ _ => rfl) fun _ hu => hu.dout hi
  case tout => exact fun hi => exec_keeps (f := State.tout) h (fun _ _ _ => rfl) fun _ hu => hu.tout hi
  case dbuf => exact fun hi => (Prod.ext_iff.mp (exec_dbuf h hi)).2
  case chain =>
    exact fun hi hinit => exec_keeps (f := State.chain) h (fun _ _ _ => rfl) fun _ hu => hu.chain hi hinit

/-! ## The frame of each kind of command -/

theorem exec_nop_frame {s t : State} (h : exec .nop s = .next t) :
    t = { s with err := t.err, lastop := t.lastop } := by
  rcases exec_effects h with ⟨c, -, rfl⟩ | ⟨u, hu, rfl⟩
  · rfl
  · cases hu
    rfl

theorem exec_rstchain_frame {s t : State} (h : exec .rstchain s = .next t) :
    t = { s with chain := t.chain, err := t.err, lastop := t.lastop } := by
  rcases exec_effects h with ⟨c, -, rfl⟩ | ⟨u, hu, rfl⟩
  · rfl
  · cases hu
    rfl

/-- INIT writes KEY and IV where it draws them, the IV under CBC only (45_control.md R172). -/
theorem exec_init_frame {s t : State} {kg ig : Bool} (h : exec (.init kg ig) s = .next t) :
    t = { s with
        key := t.key, iv := t.iv, subkey := t.subkey, ksv := t.ksv, amode := t.amode, aiv := t.aiv
        chain := t.chain, err := t.err, lastop := t.lastop, entropy := t.entropy, drawCount := t.drawCount }
      ∧ (kg = false → t.key = s.key) ∧ (ig = false ∨ s.mode ≠ 1#2 → t.iv = s.iv) := by
  rcases exec_effects h with ⟨c, -, rfl⟩ | ⟨u, hu, rfl⟩
  · exact ⟨rfl, fun _ => rfl, fun _ => rfl⟩
  · cases hu with
    | init =>
      obtain ⟨k, v, es, n, hu, hk, hv, -⟩ := initResult_frame kg ig s
      rw [hu]
      exact ⟨rfl, hk, hv⟩

theorem exec_block_frame {s t : State} {i : Instr} (hi : i ∈ [.enc, .dec]) (h : exec i s = .next t) :
    t = { s with dout := t.dout, chain := t.chain, err := t.err, lastop := t.lastop } := by
  rcases exec_effects h with ⟨c, -, rfl⟩ | ⟨u, hu, rfl⟩
  · rfl
  · cases hu with
    | enc | dec => rfl
    | _ => simp at hi

theorem exec_message_frame {s t : State} {i : Instr} (hi : i ∈ [.encmsg, .decmsg]) (h : exec i s = .next t) :
    t = { s with chain := t.chain, dbuf := t.dbuf, err := t.err, lastop := t.lastop } := by
  rcases exec_effects h with ⟨c, -, rfl⟩ | ⟨u, hu, rfl⟩
  · rfl
  · cases hu with
    | encmsg | decmsg => rfl
    | _ => simp at hi

/-- The six commands that work on TIN, TAUX and TOUT, in every form (30_encoding.md R83). -/
def IsTestCommand (i : Instr) : Prop :=
  i = .ffunc ∨ i = .round ∨ (∃ sel, i = .perm sel ∨ i = .sbox sel ∨ i = .ksub sel) ∨ ∃ dir, i = .crypt dir

theorem exec_test_frame {s t : State} {i : Instr} (hi : IsTestCommand i) (h : exec i s = .next t) :
    t = { s with tout := t.tout, err := t.err, lastop := t.lastop } := by
  rcases exec_effects h with ⟨c, -, rfl⟩ | ⟨u, hu, rfl⟩
  · rfl
  · cases hu with
    | perm | sbox | ffunc | round | ksub | crypt => rfl
    | _ => simp [IsTestCommand] at hi

/-- A message is written from offset 0 up to LEN (44_chaining.md R155, R156). -/
theorem messageResult_dbufByte (block : State → Word → Word → Word × Word) (s : State) {a : Nat}
    (ha : s.len.toNat ≤ a) : dbufByte (messageResult block s) a = dbufByte s a :=
  messageLoop_outside _ _ _ _ _ _ _ _ (.inr (by omega))

theorem exec_message_dbufByte {s t : State} {i : Instr} (hi : i ∈ [.encmsg, .decmsg]) (h : exec i s = .next t)
    {a : Nat} (ha : s.len.toNat ≤ a) : dbufByte t a = dbufByte s a := by
  refine exec_keeps (f := fun s => dbufByte s a) h (fun _ _ _ => rfl) fun u hu => ?_
  cases hu with
  | encmsg | decmsg => exact messageResult_dbufByte _ s ha
  | _ => simp at hi

/-- A command that raises leaves DBUF as it was (00_scope.md R13). -/
theorem exec_dbufByte_of_err {s t : State} {i : Instr} (h : exec i s = .next t) (he : t.err ≠ 0) (a : Nat) :
    dbufByte t a = dbufByte s a := by
  rw [raisingCommandChangesOnlyStatus s t i h he]
  rfl

/-- Settles O53: the three frames, and no control command is a message command. -/
theorem controlCommandsFrame : Obligations.ControlCommandsFrame := by
  refine fun s t => ⟨exec_nop_frame, exec_rstchain_frame, fun kg ig => exec_init_frame, fun i hi h => ?_⟩
  refine exec_dbufByte h ?_
  obtain rfl | rfl | ⟨kg, ig, rfl⟩ := hi <;> simp

/-- Settles O54: the frame of the block commands, which are no message commands. -/
theorem blockCommandsFrame : Obligations.BlockCommandsFrame := by
  intro s t i hi h
  have hchain : i ∈ [.enc, .dec] ++ [.encmsg, .decmsg] := List.mem_append_left _ hi
  refine ⟨exec_block_frame hi h, exec_chain_of_ecb h hchain, exec_dbufByte h ?_⟩
  simp only [List.mem_cons, List.not_mem_nil, or_false] at hi
  obtain rfl | rfl := hi <;> simp

/-- Settles O55: the frame of the message commands, whose loop stores below LEN, and stores nothing on an error. -/
theorem messageCommandsFrame : Obligations.MessageCommandsFrame := by
  intro s t i hi h
  have hchain : i ∈ [.enc, .dec] ++ [.encmsg, .decmsg] := List.mem_append_right _ hi
  exact ⟨exec_message_frame hi h, exec_chain_of_ecb h hchain, fun a ha => exec_message_dbufByte hi h ha,
    exec_dbufByte_of_err h⟩

/-- Settles O56: the frame of the test commands, which are no message commands. -/
theorem testCommandsFrame : Obligations.TestCommandsFrame := by
  intro s t i hi h
  refine ⟨exec_test_frame hi h, exec_dbufByte h ?_⟩
  obtain rfl | rfl | ⟨sel, rfl | rfl | rfl⟩ | ⟨dir, rfl⟩ := hi <;> simp

end Sys2Proof.Machine
end

section
/-! SUPPORT. The single commands: what each leaves when it completes, in full (45_control.md, 44_chaining.md,
40_permutation.md to 43_feistel.md), and which bits of its operands it reads (92_eei_decisions.md D17). -/

namespace Sys2Proof.Machine

/-! ## NOP, RSTCHAIN, ENC and DEC -/

/-- Settles O36: NOP's body writes nothing. -/
theorem nopReportsSuccess : Obligations.NopReportsSuccess := fun _ => rfl

/-- Settles O37: RSTCHAIN's body is the one write of CHAIN. -/
theorem rstchainCopiesTheInstanceIv : Obligations.RstchainCopiesTheInstanceIv := fun _ => rfl

/-- Settles O40: the writes of ENC, by the mode of the cipher instance. -/
theorem encEncryptsDin : Obligations.EncEncryptsDin := by
  refine fun s hk => ⟨fun ha => ?ecb, fun ha => ?cbc⟩
  case ecb => rw [exec_enc hk, blockResult, chainAfter_of_ecb ha]; simp [encryptBlock, ha, complete, errOk]
  case cbc => rw [exec_enc hk, blockResult]; simp [encryptBlock, chainAfter, ha, complete, errOk]

/-- Settles O41: the writes of DEC, by the mode of the cipher instance. -/
theorem decDecryptsDin : Obligations.DecDecryptsDin := by
  refine fun s hk => ⟨fun ha => ?ecb, fun ha => ?cbc⟩
  case ecb => rw [exec_dec hk, blockResult, chainAfter_of_ecb ha]; simp [decryptBlock, ha, complete, errOk]
  case cbc => rw [exec_dec hk, blockResult]; simp [decryptBlock, chainAfter, ha, complete, errOk]

/-! ## PERM -/

/-- PERM with a SEL that names a sound table (40_permutation.md R109). -/
theorem exec_perm {w n : Nat} {sel : Byte} {t : PermTable w n} (hsel : permBody sel = permWith t)
    (ht : t.inRange = true) (s : State) : exec (.perm sel) s =
      .next (complete 0x20#8 { s with tout := (permute t (s.tin.setWidth w)).setWidth 64 }) := by
  refine runCommand_ok ?_
  rw [hsel, permWith_eq, if_pos ht]

/-- PERM with a SEL above 5 (40_permutation.md R109). -/
theorem exec_perm_illegal {sel : Byte} (h : 5 < sel.toNat) (s : State) :
    exec (.perm sel) s = .next (raise 0x20#8 (.err .illegalCmd) s) := by
  refine runCommand_error ?_
  rcases permBody_cases sel s with ⟨hl, -⟩ | ⟨-, hb⟩
  · rw [permSelLegal, decide_eq_true_eq] at hl
    omega
  · exact hb

/-- Bit by bit, the permuted value in TOUT takes its bits from the low bits of TIN that a sound table names. -/
theorem permute_setWidth_getLsbD {w n : Nat} {t : PermTable w n} (ht : t.inRange = true) (hn : n ≤ 64) (x : Word)
    (k : Fin n) : ((permute t (x.setWidth w)).setWidth 64).getLsbD (n - 1 - k.val) = x.getLsbD (w - t.entries[k]) := by
  have hk := k.isLt
  have hlen : k.val < t.entries.toList.length := by rwa [Vector.length_toList]
  have hentry : t.entries.toList.getD k.val 0 = t.entries[k] := List.getD_eq_getElem _ _ hlen
  obtain ⟨hpos, hle⟩ := PermTable.getD_of_inRange ht hk
  rw [BitVec.getLsbD_setWidth, permute_getLsbD t _ _ (by omega), posBit, BitVec.getLsbD_setWidth,
    show n - 1 - (n - 1 - k.val) = k.val by omega, ← hentry, decide_eq_true (by omega), decide_eq_true (by omega),
    Bool.true_and, Bool.true_and]

/-- Settles O44: a legal SEL names a sound table, whose permuted value is known bit by bit; any other SEL raises. -/
theorem permMovesTheBitsOfTin : Obligations.PermMovesTheBitsOfTin := by
  unfold Obligations.PermMovesTheBitsOfTin
  intro moves s
  have hmoves {w n : Nat} (sel : Byte) (t : PermTable w n) (hsel : permBody sel = permWith t)
      (ht : t.inRange = true) (hn : n ≤ 64) : moves sel t s :=
    ⟨_, exec_perm hsel ht s, permute_setWidth_getLsbD ht hn s.tin,
      fun b hb => by rw [BitVec.getLsbD_setWidth, BitVec.getLsbD_of_ge _ _ hb, Bool.and_false]⟩
  exact ⟨hmoves 0 tableIP rfl tableIP_inRange (by decide), hmoves 1 tableIPInv rfl tableIPInv_inRange (by decide),
    hmoves 2 tableE rfl tableE_inRange (by decide), hmoves 3 tableP rfl tableP_inRange (by decide),
    hmoves 4 tablePC1 rfl tablePC1_inRange (by decide), hmoves 5 tablePC2 rfl tablePC2_inRange (by decide),
    fun sel h => exec_perm_illegal h s⟩

/-! ## SBOX -/

/-- SBOX with a SEL that names an S-box (41_sbox.md R118). -/
theorem exec_sbox {sel : Byte} {j : Fin 8} (hj : sel.toNat = j.val) (s : State) :
    exec (.sbox sel) s = .next (complete 0x21#8 { s with tout := (sbox j (tinChunk s)).setWidth 64 }) := by
  refine runCommand_ok ?_
  simp only [sboxBody, hj, j.isLt, dif_pos, Fin.eta]

/-- SBOX with a SEL above 7 (41_sbox.md R118). -/
theorem exec_sbox_illegal {sel : Byte} (h : 7 < sel.toNat) (s : State) :
    exec (.sbox sel) s = .next (raise 0x21#8 (.err .illegalCmd) s) :=
  runCommand_error (dif_neg (by omega))

/-- The place of a chunk's entry, by the bits of the word that holds the chunk (41_sbox.md R116). -/
theorem sboxIndex_extractLsb' (x : Word) : (sboxIndex (x.extractLsb' 0 6)).val =
    16 * (2 * (x.toNat / 32 % 2) + x.toNat % 2) + x.toNat / 2 % 16 := by
  simp only [sboxIndex, sboxRow, sboxCol, toNat_append_eq_mul_add, BitVec.extractLsb'_toNat,
    Nat.shiftRight_eq_div_pow]
  omega

theorem sbox_eq_getD (j : Fin 8) (x : BitVec 6) : sbox j x = (sboxTable j).toList.getD (sboxIndex x).val 0 := by
  have hlen : (sboxIndex x).val < (sboxTable j).toList.length := by
    rw [Vector.length_toList]
    exact (sboxIndex x).isLt
  exact (List.getD_eq_getElem _ _ hlen).symm

/-- Settles O45: the entry's place in the table is arithmetic on TIN. -/
theorem sboxLooksUpItsEntry : Obligations.SboxLooksUpItsEntry := by
  refine fun s sel => ⟨fun j hj => ⟨_, exec_sbox hj s, ?_⟩, fun h => exec_sbox_illegal h s⟩
  rw [BitVec.toNat_setWidth_of_le (by decide), sbox_eq_getD, tinChunk, sboxIndex_extractLsb']

/-! ## FFUNC, ROUND, KSUB and CRYPT -/

/-- FFUNC (43_feistel.md R137). -/
theorem exec_ffunc (s : State) : exec .ffunc s =
    .next (complete 0x22#8 { s with tout := (feistelF (tinHalf s) (tauxSubkey s)).setWidth 64 }) :=
  runCommand_ok (ffuncBody_eq s)

/-- ROUND (43_feistel.md R139). -/
theorem exec_round (s : State) :
    exec .round s = .next (complete 0x23#8 { s with tout := feistelRound s.tin (tauxSubkey s) }) :=
  runCommand_ok (roundBody_eq s)

/-- Settles O46: f is the four stages the statement writes out. -/
theorem ffuncEvaluatesF : Obligations.FfuncEvaluatesF := exec_ffunc

/-- Settles O47: the halves of a round's result, and the round undone between two exchanges of the halves. -/
theorem roundAppliesOneFeistelRound : Obligations.RoundAppliesOneFeistelRound := by
  refine ⟨fun s => ⟨_, exec_round s, leftHalf_append _ _, rightHalf_append _ _⟩, fun lr k => ?_⟩
  rw [feistelRound_swapHalves_feistelRound, swapHalves_swapHalves]

/-- KSUB with the number of a round (42_key_schedule.md R130). -/
theorem exec_ksub {sel : Byte} (h : ksubSelLegal sel = true) (s : State) : exec (.ksub sel) s =
    .next (complete 0x24#8
      { s with tout := ((keySchedule s.tin).toList.getD (sel.toNat - 1) 0).setWidth 64 }) :=
  runCommand_ok ((ksubBody_eq sel s).trans (if_pos h))

/-- KSUB with any other SEL (42_key_schedule.md R130). -/
theorem exec_ksub_illegal {sel : Byte} (h : ksubSelLegal sel = false) (s : State) :
    exec (.ksub sel) s = .next (raise 0x24#8 (.err .illegalCmd) s) :=
  runCommand_error ((ksubBody_eq sel s).trans (if_neg (Bool.eq_false_iff.mp h)))

theorem ksubSelLegal_iff {sel : Byte} : ksubSelLegal sel = true ↔ 1 ≤ sel.toNat ∧ sel.toNat ≤ 16 := by
  rw [ksubSelLegal, Bool.and_eq_true, decide_eq_true_eq, decide_eq_true_eq]

/-- Settles O48: the subkey of round SEL stands at place SEL - 1 of the schedule. -/
theorem ksubGivesTheSubkey : Obligations.KsubGivesTheSubkey := by
  refine fun s sel => ⟨fun i hi => ?legal, fun h => ?illegal⟩
  case legal =>
    have hlen : i.val < (keySchedule s.tin).toList.length := by rw [Vector.length_toList]; exact i.isLt
    have hplace : (keySchedule s.tin).toList.getD (sel.toNat - 1) 0 = (keySchedule s.tin)[i] := by
      rw [hi, Nat.add_sub_cancel]
      exact List.getD_eq_getElem _ _ hlen
    rw [exec_ksub (ksubSelLegal_iff.mpr (by omega)), hplace]
    rfl
  case illegal =>
    refine exec_ksub_illegal (Bool.eq_false_iff.mpr fun hl => ?_) s
    obtain ⟨h1, h16⟩ := ksubSelLegal_iff.mp hl
    omega

/-- Settles O49: CRYPT reads TIN and SUBKEY alone, and DES_D undoes DES_E. -/
theorem cryptTransformsTin : Obligations.CryptTransformsTin := by
  refine fun s hk => ⟨exec_crypt false hk, exec_crypt true hk, fun t u ht hu => ?_⟩
  obtain rfl := Host.Outcome.next.inj ((exec_crypt false hk).symm.trans ht)
  obtain rfl := Host.Outcome.next.inj ((exec_crypt true (by exact hk)).symm.trans hu)
  exact desD_desE s.subkey s.tin

/-! ## The operand bits a command reads -/

/-- FFUNC reads TIN[31:0] and TAUX[47:0]. -/
theorem exec_ffunc_congr {s t : State} {x y : Word} (hx : x.extractLsb' 0 32 = s.tin.extractLsb' 0 32)
    (hy : y.extractLsb' 0 48 = s.taux.extractLsb' 0 48) (h : exec .ffunc s = .next t) :
    exec .ffunc { s with tin := x, taux := y } = .next { t with tin := x, taux := y } := by
  rw [exec_ffunc] at h ⊢
  cases h
  simp only [tinHalf, tauxSubkey, hx, hy]
  rfl

/-- ROUND reads TAUX[47:0] of TAUX. -/
theorem exec_round_congr {s t : State} {y : Word} (hy : y.extractLsb' 0 48 = s.taux.extractLsb' 0 48)
    (h : exec .round s = .next t) : exec .round { s with taux := y } = .next { t with taux := y } := by
  rw [exec_round] at h ⊢
  cases h
  simp only [tauxSubkey, hy]
  rfl

/-- SBOX reads TIN[5:0], and nothing of TIN where its SEL is illegal. -/
theorem exec_sbox_congr {s t : State} {x : Word} (hx : x.extractLsb' 0 6 = s.tin.extractLsb' 0 6) {sel : Byte}
    (h : exec (.sbox sel) s = .next t) : exec (.sbox sel) { s with tin := x } = .next { t with tin := x } := by
  rcases Nat.lt_or_ge 7 sel.toNat with hsel | hsel
  · rw [exec_sbox_illegal hsel] at h ⊢
    cases h
    rfl
  · rw [exec_sbox (j := ⟨sel.toNat, by omega⟩) rfl] at h ⊢
    cases h
    simp only [tinChunk, hx]
    rfl

/-- PERM reads as many of TIN's low bits as its table is wide. -/
theorem exec_perm_congr {w n : Nat} {sel : Byte} {tbl : PermTable w n} (hsel : permBody sel = permWith tbl)
    (htbl : tbl.inRange = true) (hw : w ≤ 64) {s t : State} {x : Word}
    (hx : x.extractLsb' 0 w = s.tin.extractLsb' 0 w) (h : exec (.perm sel) s = .next t) :
    exec (.perm sel) { s with tin := x } = .next { t with tin := x } := by
  rw [exec_perm hsel htbl] at h ⊢
  cases h
  simp only [BitVec.setWidth_eq_extractLsb' hw, hx]
  rfl

/-- Settles O26: each command's result is a function of the operand bits it reads. -/
theorem unusedOperandBitsAreIgnored : Obligations.UnusedOperandBitsAreIgnored := by
  refine fun s x y => ⟨fun hx hy t => exec_ffunc_congr hx hy, fun hy t => exec_round_congr hy,
    fun hx j t => exec_sbox_congr hx, fun hx j t hj => ?_,
    fun hx t => exec_perm_congr (tbl := tablePC2) rfl tablePC2_inRange (by decide) hx⟩
  obtain rfl | rfl := hj
  · exact exec_perm_congr (tbl := tableE) rfl tableE_inRange (by decide) hx
  · exact exec_perm_congr (tbl := tableP) rfl tableP_inRange (by decide) hx

end Sys2Proof.Machine
end

section
/-! SUPPORT. INIT in a mode it accepts (45_control.md R172): the cipher instance it latches, and its draws in order
(00_scope.md R14). -/

namespace Sys2Proof.Machine

theorem not_modeUnsupported {m : BitVec 2} (h : m = 0#2 ∨ m = 1#2) : modeUnsupported m = false := by
  obtain rfl | rfl := h <;> rfl

/-- Settles O38: the writes of INIT, which follow the key and the IV it ends with. -/
theorem initLatchesTheInstance : Obligations.InitLatchesTheInstance := by
  intro s kg ig hmode
  have hm := not_modeUnsupported hmode
  obtain ⟨k, v, es, n, hu, hk, hv, hd⟩ := initResult_frame kg ig s
  have hnodraw : ig = false ∨ s.mode = 0#2 → ig = false ∨ s.mode ≠ 1#2 := Or.imp_right fun h => by rw [h]; decide
  refine ⟨_, exec_init kg ig hm, ?_⟩
  rw [hu]
  exact ⟨rfl, rfl, mode_bit_iff_cbc hm, rfl, rfl, rfl, rfl, hk, fun h => hv (hnodraw h), fun h h' => hd h (hnodraw h'),
    rfl⟩

/-! ## The draws -/

/-- INIT under ECB or without IVGEN takes the IV from its register. -/
theorem initIv_of_no_draw {s : State} {ig : Bool} (h : s.mode = 0#2 ∨ (s.mode = 1#2 ∧ ig = false)) :
    initIv ig s = (s.iv, s) := by
  obtain h | ⟨-, rfl⟩ := h
  · simp [initIv, h]
  · rfl

/-- INIT with IVGEN under CBC draws the IV. -/
theorem initIv_of_draw {s s' : State} {v : Word} (h : s.mode = 1#2) (hd : draw64 s = (v, s')) :
    initIv true s = (v, s') := by
  simp [initIv, h, hd]

/-- A draw where no answer waits leaves none waiting. -/
theorem draw64_of_empty {s : State} (h : s.entropy = []) :
    draw64 s = (Config.entropy s.drawCount, { s with entropy := [], drawCount := s.drawCount + 1 }) := by
  rw [draw64_nil h, h]

/-- INIT by its two choices, the key's and then the IV's in the state the key's left. -/
theorem exec_init_of_draws {s s₁ s₂ : State} (kg ig : Bool) {k v : Word} (hm : s.mode = 0#2 ∨ s.mode = 1#2)
    (hk : initKey kg s = (k, s₁)) (hv : initIv ig s₁ = (v, s₂)) :
    ∃ t, exec (.init kg ig) s = .next t
      ∧ t.err = 0 ∧ t.key = k ∧ t.subkey = keySchedule k ∧ t.iv = v ∧ t.aiv = v ∧ t.chain = v
      ∧ t.entropy = s₂.entropy ∧ t.drawCount = s₂.drawCount := by
  refine ⟨_, exec_init kg ig (not_modeUnsupported hm), ?_⟩
  rw [initResult, hk, hv]
  exact ⟨rfl, rfl, rfl, rfl, rfl, rfl, rfl, rfl⟩

/-- Settles O39: each choice of INIT is its register or a draw, and a draw is the first waiting answer or, where none
waits, the free value of its number. -/
theorem initDrawsTheKeyThenTheIv : Obligations.InitDrawsTheKeyThenTheIv := by
  refine ⟨fun s ig h => ?key, fun s h => ?iv, fun s h => ?both, fun s ig h => ?none⟩
  case key =>
    have hm := h.imp_right And.left
    exact ⟨fun d rest he => exec_init_of_draws true ig hm (draw64_cons he) (initIv_of_no_draw h),
      fun he => exec_init_of_draws true ig hm (draw64_of_empty he) (initIv_of_no_draw h)⟩
  case iv =>
    exact ⟨fun d rest he => exec_init_of_draws false true (.inr h) rfl (initIv_of_draw h (draw64_cons he)),
      fun he => exec_init_of_draws false true (.inr h) rfl (initIv_of_draw h (draw64_of_empty he))⟩
  case both =>
    refine ⟨fun d e rest he => ?_, fun d he => ?_, fun he => ?_⟩
    · exact exec_init_of_draws true true (.inr h) (draw64_cons he) (initIv_of_draw h (draw64_cons rfl))
    · exact exec_init_of_draws true true (.inr h) (draw64_cons he) (initIv_of_draw h (draw64_of_empty rfl))
    · exact exec_init_of_draws true true (.inr h) (draw64_of_empty he)
        (initIv_of_draw h (draw64_of_empty rfl))
  case none =>
    exact exec_init_of_draws false ig (h.imp_right And.left) rfl (initIv_of_no_draw h)

end Sys2Proof.Machine
end

section
/-! SUPPORT. The complement (95_test_vectors.md section 2.6): every stage of the cipher but f turns complemented inputs
into the complemented output, and f, whose inputs meet in an exclusive-or, does not see that both are complemented. And
the known answers of 95_test_vectors.md. -/

namespace Sys2Proof.Machine

/-! ## The key schedule -/

theorem posBit_not {w : Nat} (x : BitVec w) {p : Nat} (hpos : 1 ≤ p) (hle : p ≤ w) : posBit (~~~x) p = !posBit x p := by
  rw [posBit, BitVec.getLsbD_not, decide_eq_true (by omega), Bool.true_and, posBit]

/-- A sound table moves bits only (40_permutation.md R100). -/
theorem permute_not {w n : Nat} {t : PermTable w n} (ht : t.inRange = true) (x : BitVec w) :
    permute t (~~~x) = ~~~permute t x := by
  refine eq_of_posBit_eq fun k hk => ?_
  obtain ⟨hpos, hle⟩ := PermTable.getD_of_inRange ht hk
  rw [permute_posBit t _ k hk, posBit_not x hpos hle, posBit_not _ (by omega) (by omega), permute_posBit t x k hk]

theorem rotl28_not (v : KeyHalf) (n : Nat) : rotl28 (~~~v) n = ~~~rotl28 v n := by
  refine BitVec.eq_of_getLsbD_eq fun i hi => ?_
  have hmod : (i + (28 - n % 28)) % 28 < 28 := Nat.mod_lt _ (by decide)
  rw [rotl28_getLsbD _ n hi, BitVec.getLsbD_not, BitVec.getLsbD_not, rotl28_getLsbD v n hi, decide_eq_true hmod,
    decide_eq_true hi]

theorem extractLsb'_not {w start len : Nat} (x : BitVec w) (h : start + len ≤ w) :
    (~~~x).extractLsb' start len = ~~~x.extractLsb' start len := by
  refine BitVec.eq_of_getLsbD_eq fun i hi => ?_
  simp only [BitVec.getLsbD_extractLsb', BitVec.getLsbD_not, hi, show start + i < w by omega, decide_true,
    Bool.true_and]

theorem keyHalves_not (key : Word) : keyHalves (~~~key) = (~~~(keyHalves key).1, ~~~(keyHalves key).2) := by
  rw [keyHalves, permute_not tablePC1_inRange, extractLsb'_not _ (by decide), extractLsb'_not _ (by decide), keyHalves]

theorem scheduleRounds_not (ns : List Nat) (c d : KeyHalf) :
    scheduleRounds ns (~~~c) (~~~d) = (scheduleRounds ns c d).map (~~~·) := by
  induction ns generalizing c d with
  | nil => rfl
  | cons n ns ih =>
    simp only [scheduleRounds, List.map_cons, rotl28_not, ih, ← BitVec.not_append, permute_not tablePC2_inRange]

theorem keySchedule_toList (key : Word) :
    (keySchedule key).toList = scheduleRounds shifts (keyHalves key).1 (keyHalves key).2 := rfl

theorem keySchedule_not (key : Word) : (keySchedule (~~~key)).toList = (keySchedule key).toList.map (~~~·) := by
  rw [keySchedule_toList, keySchedule_toList, keyHalves_not, scheduleRounds_not]

/-! ## The rounds -/

/-- The complements of the half, through E, and of the subkey cancel in the exclusive-or (43_feistel.md R135). -/
theorem feistelF_not (r : Half) (k : Subkey) : feistelF (~~~r) (~~~k) = feistelF r k := by
  rw [feistelF, permute_not tableE_inRange, ← BitVec.not_xor_left, ← BitVec.not_xor_right, BitVec.not_not, feistelF]

theorem leftHalf_not (lr : Word) : leftHalf (~~~lr) = ~~~leftHalf lr := extractLsb'_not lr (by decide)

theorem rightHalf_not (lr : Word) : rightHalf (~~~lr) = ~~~rightHalf lr := extractLsb'_not lr (by decide)

theorem feistelRound_not (lr : Word) (k : Subkey) : feistelRound (~~~lr) (~~~k) = ~~~feistelRound lr k := by
  rw [feistelRound, rightHalf_not, leftHalf_not, feistelF_not, ← BitVec.not_xor_left, ← BitVec.not_append,
    feistelRound]

theorem swapHalves_not (lr : Word) : swapHalves (~~~lr) = ~~~swapHalves lr := by
  rw [swapHalves, rightHalf_not, leftHalf_not, ← BitVec.not_append, swapHalves]

theorem foldl_feistelRound_not (ks : List Subkey) (lr : Word) :
    (ks.map (~~~·)).foldl feistelRound (~~~lr) = ~~~ks.foldl feistelRound lr := by
  induction ks generalizing lr with
  | nil => rfl
  | cons k ks ih => rw [List.map_cons, List.foldl_cons, feistelRound_not, ih, List.foldl_cons]

theorem transform_not (x : Word) (ks : List Subkey) : transform (~~~x) (ks.map (~~~·)) = ~~~transform x ks := by
  rw [transform, permute_not tableIP_inRange, foldl_feistelRound_not, swapHalves_not, permute_not tableIPInv_inRange,
    transform]

/-- Settles O34: the complemented key gives the complemented subkeys, and the transform of the complemented block under
them is the complement, round by round. -/
theorem complementedKeyAndBlockGiveTheComplement : Obligations.ComplementedKeyAndBlockGiveTheComplement := by
  intro key x
  rw [desE, keySchedule_not, transform_not, desE]

/-! ## Known answers -/

/-- Settles O35: the two encryptions are evaluated; the decryption undoes the second. -/
theorem knownAnswersHold : Obligations.KnownAnswersHold := by
  have hwalk : desE (keySchedule 0x133457799BBCDFF1#64) 0x0123456789ABCDEF#64 = 0x85E813540F0AB405#64 := by
    decide +kernel
  have hmessage : desE (keySchedule 0x546573744B657973#64) 0x4D65737361676521#64 = 0xD71952E87AAC55B9#64 := by
    decide +kernel
  exact ⟨hwalk, hmessage, by rw [← hmessage, desD_desE]⟩

end Sys2Proof.Machine
end

section
/-! SUPPORT. Messages (44_chaining.md R151, R155, R156): the block functions of ENCMSG and DECMSG over a sequence of
blocks are the mode laws, and the one undoes the other (R158). -/

namespace Sys2Proof.Machine

/-! ## The mode laws -/

theorem encryptBlock_ecb {s : State} (ha : s.amode = false) (chain p : Word) :
    encryptBlock s chain p = (desE s.subkey p, desE s.subkey p) := by
  simp [encryptBlock, ha]

theorem encryptBlock_cbc {s : State} (ha : s.amode = true) (chain p : Word) :
    encryptBlock s chain p = (desE s.subkey (p ^^^ chain), desE s.subkey (p ^^^ chain)) := by
  simp [encryptBlock, ha]

theorem decryptBlock_ecb {s : State} (ha : s.amode = false) (chain c : Word) :
    decryptBlock s chain c = (desD s.subkey c, c) := by
  simp [decryptBlock, ha]

theorem decryptBlock_cbc {s : State} (ha : s.amode = true) (chain c : Word) :
    decryptBlock s chain c = (desD s.subkey c ^^^ chain, c) := by
  simp [decryptBlock, ha]

/-- Encrypting block by block follows `ECB_E` or `CBC_E`. -/
theorem blockResults_encryptBlock (s : State) (iv : Word) (ps : List Word) :
    blockResults (encryptBlock s) iv ps =
      if s.amode then cbcE (desE s.subkey) iv ps else ecb (desE s.subkey) ps := by
  induction ps generalizing iv with
  | nil => split <;> rfl
  | cons p ps ih =>
    rw [blockResults, ih]
    cases ha : s.amode with
    | false => rw [encryptBlock_ecb ha]; rfl
    | true => rw [encryptBlock_cbc ha]; rfl

/-- Decrypting block by block follows `ECB_D` or `CBC_D`. -/
theorem blockResults_decryptBlock (s : State) (iv : Word) (cs : List Word) :
    blockResults (decryptBlock s) iv cs =
      if s.amode then cbcD (desD s.subkey) iv cs else ecb (desD s.subkey) cs := by
  induction cs generalizing iv with
  | nil => split <;> rfl
  | cons c cs ih =>
    rw [blockResults, ih]
    cases ha : s.amode with
    | false => rw [decryptBlock_ecb ha]; rfl
    | true => rw [decryptBlock_cbc ha]; rfl

/-- The chain after encrypting is the last ciphertext block written. -/
theorem blockChain_encryptBlock (s : State) (iv : Word) (ps : List Word) :
    blockChain (encryptBlock s) iv ps = finalChain iv (blockResults (encryptBlock s) iv ps) := by
  induction ps generalizing iv with
  | nil => rfl
  | cons p ps ih => exact (ih _).trans (List.getLastD_cons ..).symm

/-- The chain after decrypting is the last ciphertext block read (90_conflicts.md C3). -/
theorem blockChain_decryptBlock (s : State) (iv : Word) (cs : List Word) :
    blockChain (decryptBlock s) iv cs = finalChain iv cs := by
  induction cs generalizing iv with
  | nil => rfl
  | cons c cs ih => exact (ih _).trans (List.getLastD_cons ..).symm

/-! ## The message commands -/

/-- The message's blocks and CHAIN after a message command. -/
theorem messageResult_blocks (block : State → Word → Word → Word × Word) (s : State) :
    messageBlocks (messageResult block s) (s.len.toNat / 8) =
        blockResults (block s) s.aiv (messageBlocks s (s.len.toNat / 8))
      ∧ (messageResult block s).chain =
        chainAfter s (blockChain (block s) s.aiv (messageBlocks s (s.len.toNat / 8))) := by
  obtain ⟨hblocks, hchain⟩ := messageLoop_blocks (block s) s.dbufEpoch (s.len.toNat / 8) 0 s.aiv s.dbuf
  exact ⟨hblocks, congrArg (chainAfter s) hchain⟩

/-- Settles O42: the loop's results are the mode law's, and its last result is the final chain. -/
theorem encmsgEncryptsTheMessage : Obligations.EncmsgEncryptsTheMessage := by
  intro s hk hm hn
  obtain ⟨hblocks, hchain⟩ := messageResult_blocks encryptBlock s
  refine ⟨_, exec_encmsg hk hm hn, ?blocks, ?chain, fun a => messageResult_dbufByte encryptBlock s, rfl⟩
  case blocks => exact hblocks.trans (blockResults_encryptBlock s _ _)
  case chain => rw [complete_chain, hchain, blockChain_encryptBlock, ← hblocks]; rfl

/-- Settles O43: the loop's results are the mode law's, and its chain is the last block it read. -/
theorem decmsgDecryptsTheMessage : Obligations.DecmsgDecryptsTheMessage := by
  intro s hk hm hn
  obtain ⟨hblocks, hchain⟩ := messageResult_blocks decryptBlock s
  refine ⟨_, exec_decmsg hk hm hn, ?blocks, ?chain, fun a => messageResult_dbufByte decryptBlock s, rfl⟩
  case blocks => exact hblocks.trans (blockResults_decryptBlock s _ _)
  case chain => rw [complete_chain, hchain, blockChain_decryptBlock]; rfl

/-! ## The round trip -/

/-- Where `d` undoes `e` on each block and finds the same next chain value, it undoes it on a sequence. -/
theorem blockResults_blockResults {d e : Word → Word → Word × Word}
    (h : ∀ chain p, d chain (e chain p).1 = (p, (e chain p).2)) (iv : Word) (ps : List Word) :
    blockResults d iv (blockResults e iv ps) = ps := by
  induction ps generalizing iv with
  | nil => rfl
  | cons p ps ih => rw [blockResults, blockResults, h, ih]

/-- One block, on a machine with the same schedule and mode. -/
theorem decryptBlock_encryptBlock {r s : State} (hsub : r.subkey = s.subkey) (ha : r.amode = s.amode)
    (chain p : Word) : decryptBlock r chain (encryptBlock s chain p).1 = (p, (encryptBlock s chain p).2) := by
  cases hs : s.amode with
  | false => rw [encryptBlock_ecb hs, decryptBlock_ecb (ha.trans hs), hsub, desD_desE]
  | true =>
    rw [encryptBlock_cbc hs, decryptBlock_cbc (ha.trans hs), hsub, desD_desE, BitVec.xor_assoc, BitVec.xor_self,
      BitVec.xor_zero]

/-- A message of LEN bytes is its blocks, where LEN is a multiple of 8. -/
theorem messageBlocks_eq_iff {r s : State} {n : Nat} (hn : n % 8 = 0) :
    messageBlocks r (n / 8) = messageBlocks s (n / 8) ↔ ∀ a, a < n → dbufByte r a = dbufByte s a :=
  ⟨fun h a ha => byteIn_eq_of_blocksFrom (n / 8) 0 h a (by omega) (by omega),
    fun h => blocksFrom_congr (n / 8) 0 fun a _ ha => h a (by omega)⟩

/-- Settles O50: DECMSG reads the blocks ENCMSG wrote and undoes them one by one from the same IV. -/
theorem decmsgUndoesEncmsg : Obligations.DecmsgUndoesEncmsg := by
  intro s t r hk hm hn ht hrk hsub hamode haiv hlen hrn hbytes
  obtain rfl := Host.Outcome.next.inj ((exec_encmsg hk hm hn).symm.trans ht)
  refine ⟨_, exec_decmsg hrk (hlen ▸ hm) hrn, rfl, (messageBlocks_eq_iff hm).mp ?_⟩
  have hreceived : messageBlocks r (s.len.toNat / 8) = messageBlocks (messageResult encryptBlock s) (s.len.toNat / 8) :=
    (messageBlocks_eq_iff hm).mpr hbytes
  have hdecrypted := (messageResult_blocks decryptBlock r).1
  rw [hlen] at hdecrypted
  calc messageBlocks (messageResult decryptBlock r) (s.len.toNat / 8)
      = blockResults (decryptBlock r) r.aiv (messageBlocks r (s.len.toNat / 8)) := hdecrypted
    _ = blockResults (decryptBlock r) s.aiv
          (blockResults (encryptBlock s) s.aiv (messageBlocks s (s.len.toNat / 8))) := by
        rw [haiv, hreceived, (messageResult_blocks encryptBlock s).1]
    _ = messageBlocks s (s.len.toNat / 8) :=
        blockResults_blockResults (decryptBlock_encryptBlock hsub hamode) _ _

end Sys2Proof.Machine
end

section
/-! SUPPORT. Sequences of the host's transactions, step by step: the stores of `bwrq` (30_encoding.md R90), and the
block commands with their transactions (44_chaining.md R154). -/

namespace Sys2Proof.Machine

/-- The words a reply adds to those a run returned. -/
def replyWords (r : Reply) : List Word :=
  match r with
  | .word v => [v]
  | _ => []

/-- A run of `k + 1` steps is a step and a run of `k` steps. -/
theorem runReplies_succ {s t u : State} {k : Nat} {ws : List Word} (hs : step s = .next t)
    (hr : runReplies k t = some (ws, u)) : runReplies (k + 1) s = some (replyWords t.reply ++ ws, u) := by
  simp only [runReplies, hs, hr]
  cases t.reply <;> rfl

/-! ## Byte stores -/

/-- The cells written in order. -/
def Memory.writeAll (m : Memory) (cells : List Host.Cell) : Memory := cells.foldl (fun m c => m.write c.1 c.2) m

/-- The host's stores of the cells, in order. -/
def cellStores (cells : List Host.Cell) : List Transaction := cells.map fun c => .bufWrite c.1 c.2

/-- The first `count` bytes of `v` with their offsets from `a` on (00_scope.md R12). -/
def cellsOf {n : Nat} (a : Nat) (v : BitVec (8 * n)) (count : Nat) : List Host.Cell :=
  (List.range count).map fun k => (a + k, byteOf v k)

/-- `MemWrite` writes the value's cells in order. -/
theorem memWriteFirst_eq_writeAll {n : Nat} (m : Memory) (a : Nat) (v : BitVec (8 * n)) (count : Nat) :
    memWriteFirst m a v count = m.writeAll (cellsOf a v count) := by
  induction count with
  | zero => rfl
  | succ k ih =>
    rw [memWriteFirst, ih]
    simp only [Memory.writeAll, cellsOf, List.range_succ, List.map_append, List.foldl_append]
    rfl

theorem pseudoBwrq_eq (a : Nat) (v : Word) : pseudoBwrq a v = cellStores (cellsOf (n := 8) a v 8) := by
  rw [cellStores, cellsOf, List.map_map]
  rfl

/-- Stores inside DBUF, one step each, write their cells and return nothing. -/
theorem runReplies_cellStores {cells : List Host.Cell} {s : State} (hp : s.pending = cellStores cells)
    (hin : ∀ c ∈ cells, c.1 < s.nBuf) (hne : cells ≠ []) : runReplies cells.length s =
      some ([], { s with pending := [], reply := .nothing, dbuf := s.dbuf.writeAll cells }) := by
  induction cells generalizing s with
  | nil => exact absurd rfl hne
  | cons c cells ih =>
    have hs := step_bufWrite_inside hp (hin c List.mem_cons_self)
    cases cells with
    | nil => exact runReplies_succ hs rfl
    | cons c' cells =>
      exact runReplies_succ hs
        (ih (s := { s with pending := cellStores (c' :: cells), reply := .nothing, dbuf := s.dbuf.write c.1 c.2 })
          rfl (fun x hx => hin x (List.mem_cons_of_mem c hx)) (List.cons_ne_nil _ _))

/-- Settles O12: the eight stores are one block store, which the laws of `writeBlock` read back. -/
theorem blockStoredByteByByteIsRead : Obligations.BlockStoredByteByByteIsRead := by
  intro s a v ha hp
  have hin : ∀ c ∈ cellsOf (n := 8) a v 8, c.1 < s.nBuf := by
    simp only [cellsOf, List.forall_mem_map, List.mem_range]
    omega
  have hrun := runReplies_cellStores (hp.trans (pseudoBwrq_eq a v)) hin (List.cons_ne_nil _ _)
  rw [← memWriteFirst_eq_writeAll] at hrun
  refine ⟨_, hrun, readBlock_writeBlock_same _ _ _ _, fun k hk => ?stored, fun x hx => ?other, rfl⟩
  case stored =>
    refine (byteIn_writeBlock _ s.dbuf a v (a + k)).trans ?_
    rw [if_pos (by omega), Nat.add_sub_cancel_left, byteOf, show 8 * (8 - 1 - k) = 56 - 8 * k by omega]
  case other => exact (byteIn_writeBlock _ s.dbuf a v x).trans (if_neg (by omega))

/-! ## Block commands one after another -/

/-- `s` with the block `p` in DIN, and `rest` left of the host's list. -/
def State.withDin (s : State) (p : Word) (rest : List Transaction) : State :=
  { s with din := p, pending := rest, reply := .nothing }

/-- `s` after the command `i` on the block `p` under CBC, `r` being the result and the next chain value. -/
def State.afterBlock (s : State) (i : Instr) (op : Byte) (p : Word) (r : Word × Word)
    (rest : List Transaction) : State :=
  { s with
    cmd := encode i, din := p, dout := r.1, chain := r.2, err := errOk, lastop := op
    pending := rest, reply := .nothing }

theorem step_writeDin {s : State} {p : Word} {rest : List Transaction} (hp : s.pending = .regWrite 0x06#8 p :: rest) :
    step s = .next (s.withDin p rest) :=
  step_regWrite (by decide) hp

theorem step_hostCommand {s : State} {i : Instr} {rest : List Transaction} (hwf : i.wf = true) (hf : s.fault = false)
    (hp : s.pending = hostCommand i :: rest) : step s = exec i (s.withCommand (encode i) rest) := by
  rw [step_cmd hp hf, execute_ok (decode_encode hwf)]

theorem step_readDout {s : State} {rest : List Transaction} (hp : s.pending = .regRead 0x07#8 :: rest) :
    step s = .next { s with pending := rest, reply := .word s.dout } :=
  step_regRead hp

section
variable {i : Instr} {op : Byte} {block : State → Word → Word → Word × Word}
  (hwf : i.wf = true)
  (hexec : ∀ s : State, s.ksv = true → exec i s = .next (complete op (blockResult block s)))
  (hblock : ∀ s t : State, t.subkey = s.subkey → t.amode = s.amode → block t = block s)
include hwf hexec hblock

/-- The command's transaction, with the block in DIN. -/
theorem step_block_command {s : State} (hf : s.fault = false) (hk : s.ksv = true) (ha : s.amode = true) (p : Word)
    (rest : List Transaction) :
    step (s.withDin p (hostCommand i :: rest)) = .next (s.afterBlock i op p (block s s.chain p) rest) := by
  have hsame : block ((s.withDin p (hostCommand i :: rest)).withCommand (encode i) rest) = block s :=
    hblock _ _ rfl rfl
  calc step (s.withDin p (hostCommand i :: rest))
      = exec i ((s.withDin p (hostCommand i :: rest)).withCommand (encode i) rest) := step_hostCommand hwf hf rfl
    _ = .next (complete op (blockResult block ((s.withDin p (hostCommand i :: rest)).withCommand (encode i) rest))) :=
        hexec _ hk
    _ = .next (s.afterBlock i op p (block s s.chain p) rest) := by
        rw [blockResult, hsame, chainAfter, if_pos (by exact ha)]
        rfl

/-- The three transactions of one block under CBC: DOUT is returned, and CHAIN is carried on to the run that follows. -/
theorem runReplies_block {s : State} {p : Word} {rest : List Transaction} (hf : s.fault = false) (hk : s.ksv = true)
    (ha : s.amode = true) (hp : s.pending = .regWrite 0x06#8 p :: hostCommand i :: .regRead 0x07#8 :: rest) :
    ∃ t : State, t.pending = rest ∧ t.fault = false ∧ t.ksv = true ∧ t.amode = true ∧ block t = block s
      ∧ t.chain = (block s s.chain p).2
      ∧ ∀ {k : Nat} {ws : List Word} {u : State}, runReplies k t = some (ws, u) →
        runReplies (k + 3) s = some ((block s s.chain p).1 :: ws, u) :=
  ⟨{ s.afterBlock i op p (block s s.chain p) rest with reply := .word (block s s.chain p).1 }, rfl, hf, hk, ha,
    hblock _ _ rfl rfl, rfl, fun hr => runReplies_succ (step_writeDin hp)
      (runReplies_succ (step_block_command hwf hexec hblock hf hk ha p _) (runReplies_succ (step_readDout rfl) hr))⟩

/-- A host that runs the command on one block after another gets the block function's results, the chain carried on in
CHAIN. -/
theorem runReplies_blockTransactions (blocks : List Word) {s : State} (hf : s.fault = false) (hk : s.ksv = true)
    (ha : s.amode = true) (hp : s.pending = blockTransactions i blocks) :
    ∃ t, runReplies (3 * blocks.length) s = some (blockResults (block s) s.chain blocks, t)
      ∧ t.chain = blockChain (block s) s.chain blocks := by
  induction blocks generalizing s with
  | nil => exact ⟨s, rfl, rfl⟩
  | cons p blocks ih =>
    obtain ⟨t, htp, htf, htk, hta, hsame, hchain, hrun⟩ := runReplies_block hwf hexec hblock hf hk ha hp
    obtain ⟨u, hu, huc⟩ := ih htf htk hta htp
    rw [hsame, hchain] at hu huc
    exact ⟨u, hrun hu, huc⟩

end

theorem encryptBlock_congr (s t : State) (hsub : t.subkey = s.subkey) (ha : t.amode = s.amode) :
    encryptBlock t = encryptBlock s := by
  funext chain p
  rw [encryptBlock, hsub, ha, encryptBlock]

theorem decryptBlock_congr (s t : State) (hsub : t.subkey = s.subkey) (ha : t.amode = s.amode) :
    decryptBlock t = decryptBlock s := by
  funext chain c
  rw [decryptBlock, hsub, ha, decryptBlock]

/-- Settles O51: the commands carry the chain in CHAIN as the mode laws carry it from block to block. -/
theorem blockCommandsFollowTheCbcLaw : Obligations.BlockCommandsFollowTheCbcLaw := by
  refine fun s blocks hf hk ha => ⟨fun hp => ?enc, fun hp => ?dec⟩
  case enc =>
    have h := runReplies_blockTransactions rfl (fun _ => exec_enc) encryptBlock_congr blocks hf hk ha hp
    rwa [blockChain_encryptBlock, blockResults_encryptBlock, if_pos ha] at h
  case dec =>
    have h := runReplies_blockTransactions rfl (fun _ => exec_dec) decryptBlock_congr blocks hf hk ha hp
    rwa [blockChain_decryptBlock, blockResults_decryptBlock, if_pos ha] at h

end Sys2Proof.Machine
end
